-- ==== Sys2Proof/Word.lean ====
section
/-! DEFINITION. The words of the RBC and the fixed sets of names its rules speak of: ports, policies,
index modes, lifecycle states, status codes. -/
namespace Sys2Proof

/-- A command word or a response word: 32 bits, crossing a port whole (30 R70, R80; 20 R52). -/
abbrev Word := BitVec 32

/-- A storage byte (20 R50). -/
abbrev Byte := BitVec 8

/-- The vector every register wider than one bit is kept in (10 R25). CFG_BASE and CAP are 24 bits wide;
BASE (ADDR_W bits) and RIDX, WIDX (IDX_W bits) use the low bits of it, and a write narrows to them. -/
abbrev Reg := BitVec 24

/-- The three command ports (00 R6). -/
inductive Port where
  | K  -- control
  | P  -- producer
  | C  -- consumer
deriving DecidableEq, Repr

/-- POL, the admission policy (10 R31). -/
inductive Policy where
  | reject     -- 0
  | overwrite  -- 1
deriving DecidableEq, Repr

/-- MODE, the index mode (10 R32). -/
inductive IndexMode where
  | mask    -- 0
  | modulo  -- 1
deriving DecidableEq, Repr

/-- STATE, the lifecycle state; the register's fourth value 3 is never held (10 R26). -/
inductive Lifecycle where
  | unbound  -- 0
  | bound    -- 1
  | faulted  -- 2
deriving DecidableEq, Repr

/-- The statuses of a response (30 R82); 0x9 to 0xF are never returned. -/
inductive Status where
  | ok               -- 0x0
  | bufferFull       -- 0x1
  | bufferEmpty      -- 0x2
  | invalidCapacity  -- 0x3
  | invalidStorage   -- 0x4
  | notBound         -- 0x5
  | alreadyBound     -- 0x6
  | illegalCommand   -- 0x7
  | faulted          -- 0x8
deriving DecidableEq, Repr

end Sys2Proof
end

