-- ==== Sys2Proof/Config.lean ====
section
/-! DEFINITION. What an implementation fixes (CAP_MAX and ADDR_W, 00 R8, R9) and the free values, which
have no body: the storage contents at power-on and the choice of ARB. -/
namespace Sys2Proof

/-- The two parameters of an implementation, which a model takes as an argument (00 R8, R9). -/
structure Config where
  /-- CAP_MAX, the largest capacity that INIT accepts. -/
  capMax : Nat
  /-- ADDR_W, the width in bits of a storage address. -/
  addrW : Nat
deriving DecidableEq, Repr

namespace Config

/-- The bounds of the parameters (00 R8, R9). -/
abbrev Valid (c : Config) : Prop :=
  1 ≤ c.capMax ∧ c.capMax ≤ 2 ^ 24 - 1 ∧ 1 ≤ c.addrW ∧ c.addrW ≤ 24

/-- The reference configuration of the spec's test vectors (00 R11). It is an example: no rule depends on it. -/
def reference : Config := { capMax := 4096, addrW := 16 }

/-- `ceil(log2 n)`, and 0 for `n ≤ 1`. -/
def ceilLog2 (n : Nat) : Nat := if n ≤ 1 then 0 else Nat.log2 (n - 1) + 1

/-- IDX_W, the width of RIDX and WIDX (00 R10). -/
def idxW (c : Config) : Nat := max 1 (ceilLog2 c.capMax)

/-- FREE VALUE. The byte that storage holds at an address nothing has written since power-on (20 R59): an
unconstrained draw for each address, of which no proof can see the value (log entry 7). -/
opaque porByte : Nat → Byte

/-- FREE VALUE. The choice of ARB among the pending commands once the script has no move left, at each turn
(00 R12): no proof can see it (log entry 3). -/
opaque arb : Nat → Nat

end Config
end Sys2Proof
end

