-- ==== Sys2Proof/Syntax.lean ====
section
/-! DEFINITION. The ten commands of the RBC, one constructor per row of the opcode map (30 R77). -/
namespace Sys2Proof

/-- One command with its operands (30 R76, R84). A numeric operand is the number the assembler line holds, of
any size; `Instr.WellFormed` is the assembler's range check. The instance is no operand (30 R75). -/
inductive Instr where
  /-- SETBASE base (41 R112). -/
  | setbase (base : Nat)
  /-- INIT pol, mode, cap (41 R113). -/
  | init (pol : Policy) (mode : IndexMode) (cap : Nat)
  /-- DEINIT (41 R114). -/
  | deinit
  /-- RESET (41 R115). -/
  | reset
  /-- WRITE byte (42 R125). -/
  | write (data : Nat)
  /-- READ (42 R126). -/
  | read
  /-- ISEMPTY (43 R140). -/
  | isEmpty
  /-- ISFULL (43 R141). -/
  | isFull
  /-- SIZE (43 R142). -/
  | size
  /-- CAPACITY (43 R143). -/
  | capacity
deriving DecidableEq, Repr

end Sys2Proof
end

