-- ==== Sys2Proof/WellFormed.lean ====
section
/-! DEFINITION. Which commands can be written: an operand out of its range is an assembly error, never a
truncated field (30 R84). -/
namespace Sys2Proof

/-- The check: base and capacity fit 24 bits, data one byte (30 R72, R73, R74, R84). -/
def Instr.wellFormed : Instr → Bool
  | .setbase base => decide (base < 2 ^ 24)
  | .init _ _ cap => decide (cap < 2 ^ 24)
  | .write data => decide (data < 2 ^ 8)
  | .deinit | .reset | .read | .isEmpty | .isFull | .size | .capacity => true

/-- Every operand is in the range of its field. -/
abbrev Instr.WellFormed (i : Instr) : Prop := i.wellFormed = true

end Sys2Proof
end

