-- ==== Sys2Proof/Decode.lean ====
section
/-! DEFINITION. The decoder of command words, total on every 32-bit word, with a name for each way a word spells
no command; then the encoder, the port-legality matrix, and the pseudo-instruction SETUP. -/
namespace Sys2Proof

/-- Why a word spells no command (30 R78). Both are answered ILLEGAL_COMMAND. -/
inductive Reject where
  /-- OP is 0x0 or 0xB .. 0xF. -/
  | reservedOpcode (op : BitVec 4)
  /-- OP is legal and a bit of a field marked RSV in its format is not 0. -/
  | reservedBits (op : BitVec 4)
deriving DecidableEq, Repr

/-- A row of the opcode map: its name and its fixed bits (30 R77). -/
structure OpRow where
  mnemonic : String
  fixed : Word
  mask : Word
deriving DecidableEq, Repr

namespace OpRow

def setbase : OpRow := ⟨"SETBASE", 0x10000000, 0xFF000000⟩
def init : OpRow := ⟨"INIT", 0x20000000, 0xF3000000⟩
def deinit : OpRow := ⟨"DEINIT", 0x30000000, 0xFFFFFFFF⟩
def reset : OpRow := ⟨"RESET", 0x40000000, 0xFFFFFFFF⟩
def write : OpRow := ⟨"WRITE", 0x50000000, 0xFFFFFF00⟩
def read : OpRow := ⟨"READ", 0x60000000, 0xFFFFFFFF⟩
def isEmpty : OpRow := ⟨"ISEMPTY", 0x70000000, 0xFFFFFFFF⟩
def isFull : OpRow := ⟨"ISFULL", 0x80000000, 0xFFFFFFFF⟩
def size : OpRow := ⟨"SIZE", 0x90000000, 0xFFFFFFFF⟩
def capacity : OpRow := ⟨"CAPACITY", 0xA0000000, 0xFFFFFFFF⟩

/-- The opcode map, in its order (30 R77). -/
def table : List OpRow :=
  [setbase, init, deinit, reset, write, read, isEmpty, isFull, size, capacity]

/-- A word spells the command of a row exactly when `(cw & mask) == match` (30 R77). -/
def spells (row : OpRow) (cw : Word) : Bool := cw &&& row.mask == row.fixed

end OpRow

/-- The field of `len` bits from bit `lo` up, as an unsigned number: `cw[lo+len-1:lo]` (00 R14). -/
def field (cw : Word) (lo len : Nat) : Nat := (cw.extractLsb' lo len).toNat

/-- The opcode, `cw[31:28]` (30 R70). -/
def opcode (cw : Word) : BitVec 4 := cw.extractLsb' 28 4

/-- `pol = cw[27]`: 0 REJECT, 1 OVERWRITE (30 R73). -/
def polField (cw : Word) : Policy := if cw.getLsbD 27 then .overwrite else .reject

/-- `mode = cw[26]`: 0 MASK, 1 MODULO (30 R73). -/
def modeField (cw : Word) : IndexMode := if cw.getLsbD 26 then .modulo else .mask

/-- The name of the rejection of a word that spells no command (30 R78). -/
def rejection (cw : Word) : Reject :=
  if 1 ≤ (opcode cw).toNat ∧ (opcode cw).toNat ≤ 10 then .reservedBits (opcode cw)
  else .reservedOpcode (opcode cw)

/-- Decode a command word: the command it spells (30 R77) with its operands (30 R76), or the name of its
rejection (30 R78). -/
def decode (cw : Word) : Except Reject Instr :=
  if OpRow.setbase.spells cw then .ok (.setbase (field cw 0 24))
  else if OpRow.init.spells cw then .ok (.init (polField cw) (modeField cw) (field cw 0 24))
  else if OpRow.deinit.spells cw then .ok .deinit
  else if OpRow.reset.spells cw then .ok .reset
  else if OpRow.write.spells cw then .ok (.write (field cw 0 8))
  else if OpRow.read.spells cw then .ok .read
  else if OpRow.isEmpty.spells cw then .ok .isEmpty
  else if OpRow.isFull.spells cw then .ok .isFull
  else if OpRow.size.spells cw then .ok .size
  else if OpRow.capacity.spells cw then .ok .capacity
  else .error (rejection cw)

/-- The row of a command in the opcode map. -/
def Instr.row : Instr → OpRow
  | .setbase _ => .setbase
  | .init _ _ _ => .init
  | .deinit => .deinit
  | .reset => .reset
  | .write _ => .write
  | .read => .read
  | .isEmpty => .isEmpty
  | .isFull => .isFull
  | .size => .size
  | .capacity => .capacity

/-- The bit of a policy (10 R31). -/
def Policy.bit : Policy → Word
  | .reject => 0
  | .overwrite => 1

/-- The bit of an index mode (10 R32). -/
def IndexMode.bit : IndexMode → Word
  | .mask => 0
  | .modulo => 1

/-- The word of a well-formed command: the match value of its row, OR'd with its operand fields (30 R84). -/
def encode : Instr → Word
  | .setbase base => 0x10000000 ||| BitVec.ofNat 32 base
  | .init pol mode cap => 0x20000000 ||| pol.bit <<< 27 ||| mode.bit <<< 26 ||| BitVec.ofNat 32 cap
  | .deinit => 0x30000000
  | .reset => 0x40000000
  | .write data => 0x50000000 ||| BitVec.ofNat 32 data
  | .read => 0x60000000
  | .isEmpty => 0x70000000
  | .isFull => 0x80000000
  | .size => 0x90000000
  | .capacity => 0xA0000000

/-- The port-legality matrix (30 R79). -/
def Instr.legalAt : Instr → Port → Bool
  | .setbase _, p => p == .K
  | .init _ _ _, p => p == .K
  | .deinit, p => p == .K
  | .reset, p => p == .K
  | .write _, p => p == .P
  | .read, p => p == .C
  | .isEmpty, _ => true
  | .isFull, _ => true
  | .size, _ => true
  | .capacity, _ => true

/-- The pseudo-instruction SETUP, legal at port K: two commands, in this order (30 R85). -/
def setup (base : Nat) (pol : Policy) (mode : IndexMode) (cap : Nat) : List Instr :=
  [.setbase base, .init pol mode cap]

/-- The command word whose bits are the low `nbits` bits of `w`, the bits above them 0. -/
def tableWord (nbits w : Nat) : Word := BitVec.ofNat 32 (w % 2 ^ nbits)

/-- What the decoder reads from a word given as the opcode table numbers its bits. -/
def decodeTableWord (nbits w : Nat) : Option Instr := (decode (tableWord nbits w)).toOption

end Sys2Proof
end

