-- ==== Sys2Proof/Machine/State.lean ====
section
/-! DEFINITION. The state of the RBC with its storage space and its environment, as plain data, and the state after
power-on reset. INVENTORY.md lists every field with its rule. -/
namespace Sys2Proof.Machine

/-- The nine registers of the block (10 R25). -/
structure Regs where
  /-- STATE (10 R26). -/
  lifecycle : Lifecycle
  /-- CFG_BASE, the storage base for the next INIT (10 R28). -/
  cfgBase : Reg
  /-- BASE, the storage address of slot 0 (10 R29). -/
  base : Reg
  /-- CAP, the number of byte slots (10 R30). -/
  cap : Reg
  /-- POL (10 R31). -/
  pol : Policy
  /-- MODE (10 R32). -/
  mode : IndexMode
  /-- RIDX, the index of the next byte to be consumed (10 R33). -/
  ridx : Reg
  /-- WIDX, the index of the next byte to be produced (10 R34). -/
  widx : Reg
  /-- FULLF, the full flag of the overwrite policy (10 R35). -/
  fullf : Bool
deriving DecidableEq, Repr

/-- The registers at POR (10 R45). -/
def Regs.por : Regs :=
  { lifecycle := .unbound, cfgBase := 0, base := 0, cap := 0, pol := .reject, mode := .mask,
    ridx := 0, widx := 0, fullf := false }

/-- The pending command of each port: a command accepted but not yet performed, at most one a port (10 R42). -/
structure Slots where
  k : Option Word
  p : Option Word
  c : Option Word
deriving DecidableEq, Repr

/-- No port has a pending command. -/
def Slots.none : Slots := { k := Option.none, p := Option.none, c := Option.none }

/-- A memory: the bytes written since power-on, addresses strictly rising. An unlisted address holds a free draw
(20 R59, log entry 7). -/
abbrev Memory := List Host.Cell

/-- One move of the block's environment (70 R190) or one choice of ARB (00 R12). -/
inductive Move where
  /-- The agent of a port presents a word at it. -/
  | issue (port : Port) (cw : Word)
  /-- ARB takes the command pending at a port, and the block performs it. -/
  | serve (port : Port)
  /-- H reads a storage byte. -/
  | hostRead (addr : Nat)
  /-- H writes a storage byte. -/
  | hostWrite (addr : Nat) (v : Byte)
  /-- The platform samples the status outputs. -/
  | sample
  /-- The platform asserts POR. -/
  | por
deriving DecidableEq, Repr

/-- One response word and the port it was returned to (30 R80). -/
structure Response where
  port : Port
  word : Word
deriving DecidableEq, Repr

/-- The levels of the four status outputs (10 R41). -/
structure Outputs where
  boundO : Bool
  faultO : Bool
  emptyO : Bool
  fullO : Bool
deriving DecidableEq, Repr

/-- What is kept of a run that POR ended (93 I17, log entry 25): its last state, and what its agents got back, newest first. -/
structure RunRecord where
  /-- The registers at its end. -/
  regs : Regs
  /-- The commands POR discarded. -/
  discarded : Slots
  /-- Storage at its end. -/
  storage : Memory
  responses : List Response
  hostReads : List Host.Cell
  samples : List Outputs
deriving DecidableEq, Repr

/-- The state. `regs` and `pending` are the block's, `storage` is the host's; `cfg` is fixed for the machine; the
other fields are the model's own, for the environment and what it observes (INVENTORY.md, section State). -/
structure State where
  cfg : Config
  regs : Regs
  pending : Slots
  storage : Memory
  /-- The moves to come. -/
  script : List Move
  /-- The port whose command is being performed, or was performed last. -/
  issuer : Port
  /-- The responses returned in the present run, newest first. -/
  responses : List Response
  /-- The bytes H has read in the present run, newest first. -/
  hostReads : List Host.Cell
  /-- The outputs the platform has sampled in the present run, newest first. -/
  samples : List Outputs
  /-- The runs that POR has ended, newest first. -/
  earlier : List RunRecord
  /-- The argument of the next draw of `Config.arb`. -/
  turn : Nat
deriving DecidableEq, Repr

/-- The state after POR of a machine with the configuration `c` (10 R45): nothing listed in storage, no move to come,
nothing observed. -/
def State.resetWith (c : Config) : State :=
  { cfg := c, regs := Regs.por, pending := Slots.none, storage := [], script := [], issuer := .K,
    responses := [], hostReads := [], samples := [], earlier := [], turn := 0 }

/-- The state after POR, with the reference configuration (DESIGN CHOICE, log entry 1). -/
def State.reset : State := State.resetWith Config.reference

/-- Why a run stops. -/
inductive Fault where
  /-- H read or wrote a byte of the bound window while BOUND (20 R55, 60 R172). Raised by the host moves. Safe: the run
  gets no value. -/
  | hostTouchedBoundWindow
  /-- H read or wrote an address the storage space does not have (20 R50). Raised by the host moves. Safe. -/
  | hostAddressOutsideStorage
  /-- A WRITE or READ reached an address the storage space does not have. Raised by them, and only in a state that breaks
  10 R38. Safe. -/
  | blockAddressOutsideStorage
deriving DecidableEq, Repr

/-- Why a command has no meaning. -/
inductive Refusal where
  /-- The command has no meaning in this model yet. Raised by an arm of `exec`; no arm raises it now. Safe. -/
  | notModelled (mnemonic : String)
deriving DecidableEq, Repr

end Sys2Proof.Machine
end

