-- ==== Sys2Proof/Machine/Operands.lean ====
section
/-! DEFINITION. Operand and register values: narrowing to a register's width, the validity checks of INIT, and the
index-arithmetic unit's indices, distances and slot addresses (40 R95, R98). Arithmetic is on natural numbers (00 R14). -/
namespace Sys2Proof.Machine

/-- The low `w` bits of a number, as a register holds them (00 R14). -/
def narrow (w n : Nat) : Reg := BitVec.ofNat 24 (n % 2 ^ w)

/-- `pow2(n)`: `n = 2^k` for some `k` (00 R14). The only candidate for `k` is the logarithm of `n`. -/
def pow2 (n : Nat) : Bool := 2 ^ Nat.log2 n == n

/-- `cap_valid(cap, mode)` (41 R110). -/
def capValid (c : Config) (cap : Nat) (mode : IndexMode) : Bool :=
  decide (1 ≤ cap) && (decide (cap ≤ c.capMax) && (mode == .modulo || pow2 cap))

/-- `storage_valid(base, cap)` (41 R111). -/
def storageValid (c : Config) (base cap : Nat) : Bool := decide (base + cap ≤ 2 ^ c.addrW)

/-- `next(i)`, the index one slot after `i` (40 R95). -/
def Regs.next (r : Regs) (i : Nat) : Nat :=
  match r.mode with
  | .mask => (i + 1) &&& (r.cap.toNat - 1)
  | .modulo => (i + 1) % r.cap.toNat

/-- `dist(w, r)`, the slots from index `i` forward to index `w` (40 R98). -/
def Regs.dist (r : Regs) (w i : Nat) : Nat := if i ≤ w then w - i else w + r.cap.toNat - i

/-- The storage address of slot `k` of the bound window, `BASE + k` (00 section 7). -/
def Regs.slotAddr (r : Regs) (k : Nat) : Nat := r.base.toNat + k

/-- The address a WRITE stores to, `BASE + WIDX` (20 R54). -/
def Regs.writeAddr (r : Regs) : Nat := r.slotAddr r.widx.toNat

/-- The address a READ reads from, `BASE + RIDX` (20 R54). -/
def Regs.readAddr (r : Regs) : Nat := r.slotAddr r.ridx.toNat

/-- Whether an address is in the bound window, `BASE .. BASE+CAP-1` while BOUND (00 section 7). -/
def Regs.inWindow (r : Regs) (a : Nat) : Bool :=
  r.lifecycle == .bound && (decide (r.base.toNat ≤ a) && decide (a < r.base.toNat + r.cap.toNat))

/-- `WIDX <- n`, a register of IDX_W bits (10 R34). -/
def Regs.setWidx (c : Config) (n : Nat) (r : Regs) : Regs := { r with widx := narrow c.idxW n }

/-- `RIDX <- n`, a register of IDX_W bits (10 R33). -/
def Regs.setRidx (c : Config) (n : Nat) (r : Regs) : Regs := { r with ridx := narrow c.idxW n }

end Sys2Proof.Machine
end

