-- ==== Sys2Proof/Machine/Flags.lean ====
section
/-! DEFINITION. The occupancy, the full and empty predicates and the full flag of the index unit (40 R99 to R103), and the
four status outputs (10 R41). -/
namespace Sys2Proof.Machine

/-- `size()`, the number of unread bytes (40 R99). -/
def Regs.size (r : Regs) : Nat :=
  match r.pol with
  | .reject => r.dist r.widx.toNat r.ridx.toNat
  | .overwrite => if r.fullf then r.cap.toNat else r.dist r.widx.toNat r.ridx.toNat

/-- `is_empty()` (40 R100). -/
def Regs.isEmpty (r : Regs) : Bool :=
  match r.pol with
  | .reject => r.ridx == r.widx
  | .overwrite => r.ridx == r.widx && !r.fullf

/-- `is_full()` (40 R101). -/
def Regs.isFull (r : Regs) : Bool :=
  match r.pol with
  | .reject => r.next r.widx.toNat == r.ridx.toNat
  | .overwrite => r.fullf

/-- `usable()`, the largest value `size()` can take (40 R102). -/
def Regs.usable (r : Regs) : Nat :=
  match r.pol with
  | .reject => r.cap.toNat - 1
  | .overwrite => r.cap.toNat

/-- `fullf_after_write(w, i)`, the value FULLF takes after a WRITE that leaves the indices at `w` and `i` (40 R103). -/
def Regs.fullfAfterWrite (r : Regs) (w i : Nat) : Bool :=
  match r.pol with
  | .reject => false
  | .overwrite => w == i

/-- The status outputs (10 R41), exact in this untimed model (70 R184, log entry 13). -/
def Regs.outputs (r : Regs) : Outputs :=
  { boundO := r.lifecycle == .bound
    faultO := r.lifecycle == .faulted
    emptyO := r.lifecycle == .bound && r.isEmpty
    fullO := r.lifecycle == .bound && r.isFull }

end Sys2Proof.Machine
end

