-- ==== Sys2Proof/Machine/Ops.lean ====
section
/-! DEFINITION. The named operations over memory, responses and registers that the commands and the moves share: reading and
writing one storage byte, answering a command, the checks every command begins with, entering FAULTED, and POR. -/
namespace Sys2Proof.Machine

/-- The byte a memory lists at an address; none where nothing was written since power-on. -/
def Memory.get? : Memory → Nat → Option Byte
  | [], _ => none
  | (b, v) :: m, a => if a = b then some v else Memory.get? m a

/-- The byte at an address: the one listed, else the free draw of power-on (20 R59). -/
def Memory.byteAt (m : Memory) (a : Nat) : Byte := (Memory.get? m a).getD (Config.porByte a)

/-- The memory with one byte written, in its canonical form. -/
def Memory.put : Memory → Nat → Byte → Memory
  | [], a, v => [(a, v)]
  | (b, w) :: m, a, v =>
    if a < b then (a, v) :: (b, w) :: m
    else if a = b then (a, v) :: m
    else (b, w) :: Memory.put m a v

/-- The canonical form: addresses strictly rising. An unlisted address reads as no named byte, so no entry equals it
(log entry 7). -/
abbrev Memory.wf (m : Memory) : Prop := m.Pairwise (fun x y => x.1 < y.1)

/-- Whether the storage space has an address (20 R50). -/
def State.hasAddress (s : State) (a : Nat) : Bool := decide (a < 2 ^ s.cfg.addrW)

/-- `MemRead(a, 1)`, then go on with the byte (00 R15). -/
def memRead (a : Nat) (s : State) (k : Byte → Host.Outcome State Fault Refusal) : Host.Outcome State Fault Refusal :=
  if s.hasAddress a then k (Memory.byteAt s.storage a) else .fault .blockAddressOutsideStorage

/-- The state with one storage byte written. -/
def State.putByte (a : Nat) (v : Byte) (s : State) : State := { s with storage := Memory.put s.storage a v }

/-- `MemWrite(a, 1, v)`, then go on (00 R15). -/
def memWrite (a : Nat) (v : Byte) (s : State) (k : State → Host.Outcome State Fault Refusal) :
    Host.Outcome State Fault Refusal :=
  if s.hasAddress a then k (s.putByte a v) else .fault .blockAddressOutsideStorage

/-- The state with other registers. -/
def State.withRegs (r : Regs) (s : State) : State := { s with regs := r }

/-- The numbers of the statuses (30 R82). -/
def statusCode : Status → BitVec 4
  | .ok => 0x0
  | .bufferFull => 0x1
  | .bufferEmpty => 0x2
  | .invalidCapacity => 0x3
  | .invalidStorage => 0x4
  | .notBound => 0x5
  | .alreadyBound => 0x6
  | .illegalCommand => 0x7
  | .faulted => 0x8

/-- The response word `{S[3:0], 0b0000, zext_24(v)}` (30 R80). -/
def responseWord (st : Status) (v : Reg) : Word := statusCode st ++ 0#4 ++ v

/-- Return a response word to the port whose command is being performed (30 R80). -/
def State.respond (st : Status) (v : Reg) (s : State) : State :=
  { s with responses := { port := s.issuer, word := responseWord st v } :: s.responses }

/-- `respond(S, v)`: end the command (00 R15). -/
def answer (st : Status) (v : Reg) (s : State) : Host.Outcome State Fault Refusal := .next (s.respond st v)

/-- The answer to a word that spells no command, and to a command at a port that may not issue it (60 R159). -/
def answerIllegal (s : State) : Host.Outcome State Fault Refusal := answer .illegalCommand 0 s

/-- The second check of 30 R81: go on only if the command is legal at the port that issued it. -/
def whenLegal (i : Instr) (s : State) (k : Host.Outcome State Fault Refusal) : Host.Outcome State Fault Refusal :=
  if i.legalAt s.issuer then k else answerIllegal s

/-- The FAULTED check (60 R160, R161). -/
def unlessFaulted (s : State) (k : Host.Outcome State Fault Refusal) : Host.Outcome State Fault Refusal :=
  match s.regs.lifecycle with
  | .faulted => answer .faulted 0 s
  | .unbound => k
  | .bound => k

/-- The FAULTED check and then the check that an instance is bound (60 R156, R160, R161). -/
def whenBound (s : State) (k : Host.Outcome State Fault Refusal) : Host.Outcome State Fault Refusal :=
  match s.regs.lifecycle with
  | .faulted => answer .faulted 0 s
  | .unbound => answer .notBound 0 s
  | .bound => k

/-- `enter_fault()`: only STATE changes, nothing is saved and control goes nowhere (60 R158). -/
def State.enterFault (s : State) : State := { s with regs := { s.regs with lifecycle := .faulted } }

/-- The record of the present run, closed in this state. -/
def State.record (s : State) : RunRecord :=
  { regs := s.regs, discarded := s.pending, storage := s.storage, responses := s.responses, hostReads := s.hostReads,
    samples := s.samples }

/-- POR, the only way out of FAULTED (70 R175, 60 R164): every register takes its POR value and every pending command is
discarded without a response; storage keeps its bytes. A POR starts a new run (93 I17): nothing is observed in it yet, and
the record of the run it ended is kept (log entry 25). -/
def State.powerOn (s : State) : State :=
  { s with regs := Regs.por, pending := Slots.none, responses := [], hostReads := [], samples := [],
           earlier := s.record :: s.earlier }

/-- The pending command of a port (10 R42). -/
def Slots.get (sl : Slots) : Port → Option Word
  | .K => sl.k
  | .P => sl.p
  | .C => sl.c

/-- The slots with another content for one port. -/
def Slots.set (sl : Slots) (port : Port) (cw : Option Word) : Slots :=
  match port with
  | .K => { sl with k := cw }
  | .P => { sl with p := cw }
  | .C => { sl with c := cw }

/-- The ports that have a pending command. -/
def Slots.ports (sl : Slots) : List Port := [Port.K, Port.P, Port.C].filter fun p => (sl.get p).isSome

end Sys2Proof.Machine
end

