-- ==== Sys2Proof/Machine/Lifecycle.lean ====
section
/-! DEFINITION. The lifecycle commands: SETBASE, INIT, DEINIT, RESET (41). -/
namespace Sys2Proof.Machine

/-- The registers after RESET (41 R115): the indices and the full flag 0. -/
def Regs.emptied (r : Regs) : Regs := { r with ridx := 0, widx := 0, fullf := false }

/-- The registers after DEINIT of a bound block (41 R114): all 0 but CFG_BASE. -/
def Regs.released (r : Regs) : Regs := { Regs.por with cfgBase := r.cfgBase }

/-- The registers after an INIT answered OK (41 R113): an empty block bound at `CFG_BASE[ADDR_W-1:0]`. -/
def Regs.boundTo (c : Config) (pol : Policy) (mode : IndexMode) (cap : Nat) (r : Regs) : Regs :=
  { lifecycle := .bound, cfgBase := r.cfgBase, base := narrow c.addrW r.cfgBase.toNat,
    cap := BitVec.ofNat 24 cap, pol := pol, mode := mode, ridx := 0, widx := 0, fullf := false }

/-- SETBASE: load the storage base for the next INIT (41 R112). -/
def execSetbase (base : Nat) (s : State) : Host.Outcome State Fault Refusal :=
  whenLegal (.setbase base) s <| unlessFaulted s <|
    answer .ok 0 (s.withRegs { s.regs with cfgBase := BitVec.ofNat 24 base })

/-- INIT: create an empty instance bound to storage, or enter FAULTED (41 R113). -/
def execInit (pol : Policy) (mode : IndexMode) (cap : Nat) (s : State) : Host.Outcome State Fault Refusal :=
  whenLegal (.init pol mode cap) s <|
    match s.regs.lifecycle with
    | .faulted => answer .faulted 0 s
    | .bound => answer .alreadyBound 0 s
    | .unbound =>
      if !capValid s.cfg cap mode then answer .invalidCapacity 0 s.enterFault
      else if !storageValid s.cfg s.regs.cfgBase.toNat cap then answer .invalidStorage 0 s.enterFault
      else answer .ok 0 (s.withRegs (s.regs.boundTo s.cfg pol mode cap))

/-- DEINIT: release the instance; nothing to do on an unbound block (41 R114). -/
def execDeinit (s : State) : Host.Outcome State Fault Refusal :=
  whenLegal .deinit s <|
    match s.regs.lifecycle with
    | .faulted => answer .faulted 0 s
    | .unbound => answer .ok 0 s
    | .bound => answer .ok 0 (s.withRegs s.regs.released)

/-- RESET: empty the instance without touching storage (41 R115). -/
def execReset (s : State) : Host.Outcome State Fault Refusal :=
  whenLegal .reset s <| whenBound s <| answer .ok 0 (s.withRegs s.regs.emptied)

end Sys2Proof.Machine
end

