-- ==== Sys2Proof/Machine/Query.lean ====
section
/-! DEFINITION. The query commands: ISEMPTY, ISFULL, SIZE, CAPACITY (43). They change nothing but the response. -/
namespace Sys2Proof.Machine

/-- The VALUE of a Boolean answer: 1 for true, 0 for false (30 R83). -/
def boolValue (b : Bool) : Reg := if b then 1 else 0

/-- ISEMPTY (43 R140). -/
def execIsEmpty (s : State) : Host.Outcome State Fault Refusal :=
  whenLegal .isEmpty s <| whenBound s <| answer .ok (boolValue s.regs.isEmpty) s

/-- ISFULL (43 R141). -/
def execIsFull (s : State) : Host.Outcome State Fault Refusal :=
  whenLegal .isFull s <| whenBound s <| answer .ok (boolValue s.regs.isFull) s

/-- SIZE (43 R142). -/
def execSize (s : State) : Host.Outcome State Fault Refusal :=
  whenLegal .size s <| whenBound s <| answer .ok (BitVec.ofNat 24 s.regs.size) s

/-- CAPACITY (43 R143). -/
def execCapacity (s : State) : Host.Outcome State Fault Refusal :=
  whenLegal .capacity s <| whenBound s <| answer .ok s.regs.cap s

end Sys2Proof.Machine
end

