-- ==== Sys2Proof/Machine/Transfer.lean ====
section
/-! DEFINITION. The data-transfer commands: WRITE, READ (42). -/
namespace Sys2Proof.Machine

/-- The registers after a WRITE that stored its byte (42 R125): WIDX advances; under OVERWRITE the oldest byte is dropped
when the buffer was full, and FULLF is computed from the updated indices. -/
def Regs.afterWrite (c : Config) (r : Regs) : Regs :=
  match r.pol with
  | .reject => r.setWidx c (r.next r.widx.toNat)
  | .overwrite =>
    let r1 := r.setWidx c (r.next r.widx.toNat)
    let r2 := if r.fullf then r1.setRidx c (r1.next r1.ridx.toNat) else r1
    { r2 with fullf := r2.fullfAfterWrite r2.widx.toNat r2.ridx.toNat }

/-- The registers after a READ that read its byte (42 R126): RIDX advances and FULLF is cleared. -/
def Regs.afterRead (c : Config) (r : Regs) : Regs :=
  { r.setRidx c (r.next r.ridx.toNat) with fullf := false }

/-- WRITE: append one byte, or refuse it (REJECT on a full buffer), or drop the oldest byte for it (OVERWRITE on a full
buffer) (42 R125). -/
def execWrite (data : Nat) (s : State) : Host.Outcome State Fault Refusal :=
  whenLegal (.write data) s <| whenBound s <|
    match s.regs.pol with
    | .reject =>
      if s.regs.isFull then answer .bufferFull 0 s
      else memWrite s.regs.writeAddr (BitVec.ofNat 8 data) s fun s1 =>
        answer .ok 0 (s1.withRegs (s1.regs.afterWrite s1.cfg))
    | .overwrite =>
      memWrite s.regs.writeAddr (BitVec.ofNat 8 data) s fun s1 =>
        answer .ok 0 (s1.withRegs (s1.regs.afterWrite s1.cfg))

/-- READ: remove and return the oldest byte (42 R126). -/
def execRead (s : State) : Host.Outcome State Fault Refusal :=
  whenLegal .read s <| whenBound s <|
    if s.regs.isEmpty then answer .bufferEmpty 0 s
    else memRead s.regs.readAddr s fun v =>
      answer .ok (v.setWidth 24) (s.withRegs (s.regs.afterRead s.cfg))

end Sys2Proof.Machine
end

