-- ==== Sys2Proof/Machine/Dispatch.lean ====
section
/-! DEFINITION. One arm per command. -/
namespace Sys2Proof.Machine

/-- Perform a command issued at the port `s.issuer` (30 R81, third step). -/
def exec (i : Instr) (s : State) : Host.Outcome State Fault Refusal :=
  match i with
  | .setbase base => Sys2Proof.Machine.execSetbase base s
  | .init pol mode cap => Sys2Proof.Machine.execInit pol mode cap s
  | .deinit => Sys2Proof.Machine.execDeinit s
  | .reset => Sys2Proof.Machine.execReset s
  | .write data => Sys2Proof.Machine.execWrite data s
  | .read => Sys2Proof.Machine.execRead s
  | .isEmpty => Sys2Proof.Machine.execIsEmpty s
  | .isFull => Sys2Proof.Machine.execIsFull s
  | .size => Sys2Proof.Machine.execSize s
  | .capacity => Sys2Proof.Machine.execCapacity s

end Sys2Proof.Machine
end

