-- ==== Sys2Proof/Machine/Serve.lean ====
section
/-! DEFINITION. The moves of the step: taking and performing a pending command, ARB, issuing a command, the host's storage
accesses, sampling the outputs and POR (70 R190); and performing a whole serialisation order, for claims about sequences. -/
namespace Sys2Proof.Machine

/-- Take the command pending at a port: it is no longer pending, and its response will go to that port. -/
def State.take (port : Port) (rest : List Move) (s : State) : State :=
  { s with issuer := port, pending := s.pending.set port none, script := rest }

/-- Perform the command word of the port `s.issuer` (30 R81). -/
def perform (cw : Word) (s : State) : Host.Outcome State Fault Refusal :=
  match decode cw with
  | .error _ => answerIllegal s
  | .ok i => exec i s

/-- Take and perform the command pending at a port, leaving `rest` to come; where none is pending, there is nothing to
take (log entry 5). -/
def serve (port : Port) (rest : List Move) (s : State) : Host.Outcome State Fault Refusal :=
  match s.pending.get port with
  | none => .next { s with script := rest }
  | some cw => perform cw (s.take port rest)

/-- ARB with no move left in the script: the one port pending, or a free choice among them (00 R12, log entry 3). -/
def State.arbitrate (s : State) : Option Port :=
  match s.pending.ports with
  | [] => none
  | [p] => some p
  | p :: q :: ps => (p :: q :: ps)[Config.arb s.turn % (ps.length + 2)]?

/-- The step with an empty script: a pending command is performed (00 R12, fairness), and with none pending the block
idles (log entry 6). -/
def serveAny (s : State) : Host.Outcome State Fault Refusal :=
  match s.arbitrate with
  | none => .next s
  | some p => serve p [] { s with turn := s.turn + 1 }

/-- An agent presents a word at its port. A port with a pending command takes no new one until it has returned the
response (10 R42): the agent waits, and the block performs the pending command first (log entry 4). -/
def issue (port : Port) (cw : Word) (rest : List Move) (s : State) : Host.Outcome State Fault Refusal :=
  match s.pending.get port with
  | none => .next { s with pending := s.pending.set port (some cw), script := rest }
  | some _ => serve port s.script s

/-- The check of a host access (20 R50, R55), then go on. -/
def hostAccess (a : Nat) (s : State) (k : Host.Outcome State Fault Refusal) : Host.Outcome State Fault Refusal :=
  if !s.hasAddress a then .fault .hostAddressOutsideStorage
  else if s.regs.inWindow a then .fault .hostTouchedBoundWindow
  else k

/-- H reads a storage byte (20 R55). -/
def hostRead (a : Nat) (rest : List Move) (s : State) : Host.Outcome State Fault Refusal :=
  hostAccess a s <| .next { s with script := rest, hostReads := (a, Memory.byteAt s.storage a) :: s.hostReads }

/-- H writes a storage byte (20 R55). -/
def hostWrite (a : Nat) (v : Byte) (rest : List Move) (s : State) : Host.Outcome State Fault Refusal :=
  hostAccess a s <| .next { s.putByte a v with script := rest }

/-- The platform samples the status outputs (70 R190). -/
def sampleOutputs (rest : List Move) (s : State) : Host.Outcome State Fault Refusal :=
  .next { s with script := rest, samples := s.regs.outputs :: s.samples }

/-- The platform asserts POR between two commands (70 R175). -/
def assertPor (rest : List Move) (s : State) : Host.Outcome State Fault Refusal :=
  .next { s.powerOn with script := rest }

/-- The port at which a word is placed for `State.withFetchWord`: the first of K, P, C where its command is legal, and K
for a word that spells none (log entry 11). -/
def homePort (cw : Word) : Port :=
  match decode cw with
  | .error _ => .K
  | .ok i => if i.legalAt .K then .K else if i.legalAt .P then .P else .C

/-- Perform one command as if issued at a port, in a state at rest between commands. -/
def performAt (port : Port) (i : Instr) (s : State) : Host.Outcome State Fault Refusal := exec i { s with issuer := port }

/-- Perform a serialisation order: commands with their ports, one after another (20 R60). -/
def performAll : List (Port × Instr) → State → Host.Outcome State Fault Refusal
  | [], s => .next s
  | (p, i) :: rest, s =>
    match performAt p i s with
    | .next t => performAll rest t
    | .fault f => .fault f
    | .refused r => .refused r

end Sys2Proof.Machine
end

