-- ==== Sys2Proof/Machine/Step.lean ====
section
/-! DEFINITION. One step of the machine: the next move of the script, or, with none left, a pending command. -/
namespace Sys2Proof.Machine

/-- One step (00 R7, R12; 70 R190). -/
def step (s : State) : Host.Outcome State Fault Refusal :=
  match s.script with
  | [] => serveAny s
  | .issue port cw :: rest => issue port cw rest s
  | .serve port :: rest => serve port rest s
  | .hostRead a :: rest => hostRead a rest s
  | .hostWrite a v :: rest => hostWrite a v rest s
  | .sample :: rest => sampleOutputs rest s
  | .por :: rest => assertPor rest s

/-- The state with a command word pending at the port that may issue it, and ARB about to take it (log entry 11). -/
def State.withFetchWord (s : State) (nbits w : Nat) : State :=
  { s with
    pending := s.pending.set (homePort (tableWord nbits w)) (some (tableWord nbits w))
    script := .serve (homePort (tableWord nbits w)) :: s.script }

end Sys2Proof.Machine
end

