-- ==== Sys2Proof/Machine/Content.lean ====
section
/-! DEFINITION. The logical content of a bound instance (42 R127), the names of its fill states (40 R106), and the abstract byte
queue that the data and query commands implement (42 R129). -/
namespace Sys2Proof.Machine

/-- The storage byte of the `k`-th unread byte: slot `(RIDX + k) mod CAP` (42 R127). -/
def State.unread (s : State) (k : Nat) : Byte :=
  Memory.byteAt s.storage (s.regs.slotAddr ((s.regs.ridx.toNat + k) % s.regs.cap.toNat))

/-- `content()`, the unread bytes, oldest first (42 R127). -/
def State.content (s : State) : List Byte := (List.range s.regs.size).map s.unread

/-- The document's names of the states of an instance (40 R106). -/
inductive Fill where
  | empty
  | partly
  | full
deriving DecidableEq, Repr

/-- The name of a state: Empty first, so that a REJECT instance of capacity 1 is Empty (40 R106, 90 C5). -/
def Regs.fill (r : Regs) : Fill := if r.isEmpty then .empty else if r.isFull then .full else .partly

/-- A byte queue with a bound: what the commands mean to their agents, with no index and no storage. -/
structure Queue where
  pol : Policy
  cap : Nat
  items : List Byte
deriving DecidableEq, Repr

/-- The most bytes the queue holds (40 R102). -/
def Queue.usable (q : Queue) : Nat :=
  match q.pol with
  | .reject => q.cap - 1
  | .overwrite => q.cap

/-- Append a byte: under REJECT a full queue refuses it, under OVERWRITE a full queue drops its oldest byte (42 R129). -/
def Queue.write (q : Queue) (v : Byte) : Queue × Status × Nat :=
  if q.items.length < q.usable then ({ q with items := q.items ++ [v] }, .ok, 0)
  else match q.pol with
    | .reject => (q, .bufferFull, 0)
    | .overwrite => ({ q with items := q.items.tail ++ [v] }, .ok, 0)

/-- Remove the oldest byte and answer it (42 R129). -/
def Queue.read (q : Queue) : Queue × Status × Nat :=
  match q.items with
  | [] => (q, .bufferEmpty, 0)
  | b :: rest => ({ q with items := rest }, .ok, b.toNat)

/-- What a data or query command does to the queue and answers; none for a lifecycle command. -/
def Queue.perform (q : Queue) : Instr → Option (Queue × Status × Nat)
  | .write data => some (q.write (BitVec.ofNat 8 data))
  | .read => some q.read
  | .isEmpty => some (q, .ok, if q.items.length = 0 then 1 else 0)
  | .isFull => some (q, .ok, if q.items.length = q.usable then 1 else 0)
  | .size => some (q, .ok, q.items.length)
  | .capacity => some (q, .ok, q.cap)
  | .setbase _ | .init _ _ _ | .deinit | .reset => none

/-- The queue a bound instance stands for. -/
def State.queue (s : State) : Queue := { pol := s.regs.pol, cap := s.regs.cap.toNat, items := s.content }

/-- What a sequence of commands does to the queue, and its responses, oldest first; lifecycle commands are skipped. -/
def Queue.performAll : Queue → List (Port × Instr) → Queue × List Response
  | q, [] => (q, [])
  | q, (p, i) :: rest =>
    match q.perform i with
    | none => q.performAll rest
    | some (q', st, v) =>
      ((q'.performAll rest).1, { port := p, word := responseWord st (BitVec.ofNat 24 v) } :: (q'.performAll rest).2)

/-- Whether a command is a data-transfer command at its own port: WRITE at P or READ at C (42). -/
def isTransfer : Port × Instr → Bool
  | (.P, .write _) => true
  | (.C, .read) => true
  | _ => false

/-- The bytes of the WRITE commands of a sequence, in order. -/
def writtenBytes (cmds : List (Port × Instr)) : List Byte :=
  cmds.filterMap fun c => match c.2 with
    | .write data => some (BitVec.ofNat 8 data)
    | _ => none

/-- How many commands of a sequence are WRITEs at port P. -/
def writeCount (cmds : List (Port × Instr)) : Nat :=
  cmds.countP fun c => match c with
    | (.P, .write _) => true
    | _ => false

/-- How many commands of a sequence are READs at port C. -/
def readCount (cmds : List (Port × Instr)) : Nat :=
  cmds.countP fun c => match c with
    | (.C, .read) => true
    | _ => false

/-- How many responses of a list went to a port with status OK. -/
def okCount (port : Port) (rs : List Response) : Nat :=
  rs.countP fun r => r.port == port && r.word.extractLsb' 28 4 == statusCode .ok

end Sys2Proof.Machine
end

