-- ==== Sys2Proof/Machine/Run.lean ====
section
/-! DEFINITION. The present run, from its start or the last POR: what is left of it in the script, and its observation (70 R187). -/
namespace Sys2Proof.Machine

/-- Whether an agent issues another command in the present run, which the next POR ends (70 R187; 93 I17). -/
def issuesAgain : List Move → Bool
  | [] => false
  | .issue _ _ :: _ => true
  | .por :: _ => false
  | .serve _ :: rest => issuesAgain rest
  | .hostRead _ :: rest => issuesAgain rest
  | .hostWrite _ _ :: rest => issuesAgain rest
  | .sample :: rest => issuesAgain rest

/-- Whether H may access a byte: storage has it, and it is not in the bound window (20 R50, R55). -/
def State.hostMayAccess (s : State) (a : Nat) : Bool := s.hasAddress a && !s.regs.inWindow a

/-- Whether a host access left in the present run, made with these registers, stops it with a fault (20 R55). -/
def State.hostStopsRun (s : State) : List Move → Bool
  | [] => false
  | .issue _ _ :: rest => s.hostStopsRun rest
  | .por :: _ => false
  | .serve _ :: rest => s.hostStopsRun rest
  | .hostRead a :: rest => !s.hostMayAccess a || s.hostStopsRun rest
  | .hostWrite a _ :: rest => !s.hostMayAccess a || s.hostStopsRun rest
  | .sample :: rest => s.hostStopsRun rest

/-- The response words returned to a port in the present run, oldest first. -/
def State.responsesAt (s : State) (port : Port) : List Word :=
  ((s.responses.filter fun r => r.port == port).map Response.word).reverse

/-- Every response ever returned, in the present run and in the ended ones, newest first. -/
def State.allResponses (s : State) : List Response := s.responses ++ s.earlier.flatMap RunRecord.responses

/-- The observation of a run: the responses at each port, the final registers, and the final storage bytes that H reads, after
DEINIT or outside the window (70 R187). It says nothing of the order of ARB, of time, or of bytes H does not read. -/
structure Observation where
  k : List Word
  p : List Word
  c : List Word
  regs : Regs
  bytes : List Host.Cell
deriving DecidableEq, Repr

/-- The observation of the present run in this state, where H reads the bytes at `addrs`; a byte it may not read is left out. -/
def State.observe (s : State) (addrs : List Nat) : Observation :=
  { k := s.responsesAt .K, p := s.responsesAt .P, c := s.responsesAt .C, regs := s.regs
    bytes := (addrs.filter s.hostMayAccess).map fun a => (a, Memory.byteAt s.storage a) }

end Sys2Proof.Machine
end

