-- ==== Sys2Proof/Safety.lean ====
section
/-! DEFINITION. The invariants of the architectural state (10 R37 to R40, R50), the launch states of a run, and when a run is
ended or faulted (60 R172; 70 R187, R188). -/
namespace Sys2Proof.Machine

/-- 10 R37: while not BOUND every register but STATE and CFG_BASE is 0. -/
abbrev Regs.ClearWhileUnbound (r : Regs) : Prop :=
  r.lifecycle ≠ .bound →
    r.base = 0 ∧ r.cap = 0 ∧ r.pol = .reject ∧ r.mode = .mask ∧ r.ridx = 0 ∧ r.widx = 0 ∧ r.fullf = false

/-- 10 R38: while BOUND the capacity is one INIT accepts, the window lies in the storage space, and the indices are below CAP. -/
abbrev Regs.ShapedWhileBound (c : Config) (r : Regs) : Prop :=
  r.lifecycle = .bound →
    1 ≤ r.cap.toNat ∧ r.cap.toNat ≤ c.capMax ∧ (r.mode = .mask → pow2 r.cap.toNat = true) ∧
    r.base.toNat + r.cap.toNat ≤ 2 ^ c.addrW ∧ r.ridx.toNat < r.cap.toNat ∧ r.widx.toNat < r.cap.toNat

/-- 10 R39: while BOUND under REJECT the full flag is 0 and one slot stays free. -/
abbrev Regs.RejectKeepsSlot (r : Regs) : Prop :=
  r.lifecycle = .bound → r.pol = .reject → r.fullf = false ∧ r.size ≤ r.cap.toNat - 1

/-- 10 R40: while BOUND under OVERWRITE the full flag is set only where the indices are equal, and the size is at most CAP. -/
abbrev Regs.OverwriteFlagged (r : Regs) : Prop :=
  r.lifecycle = .bound → r.pol = .overwrite → (r.fullf = true → r.ridx = r.widx) ∧ r.size ≤ r.cap.toNat

/-- The invariants of the registers (10 R37 to R40). -/
abbrev Regs.Inv (c : Config) (r : Regs) : Prop :=
  r.ClearWhileUnbound ∧ r.ShapedWhileBound c ∧ r.RejectKeepsSlot ∧ r.OverwriteFlagged

/-- BASE fits ADDR_W bits and the indices fit IDX_W bits (10 R25). -/
abbrev Regs.FitsWidths (c : Config) (r : Regs) : Prop :=
  r.base.toNat < 2 ^ c.addrW ∧ r.ridx.toNat < 2 ^ c.idxW ∧ r.widx.toNat < 2 ^ c.idxW

/-- Storage is in canonical form and lists only addresses it has (20 R50). -/
abbrev State.StorageOk (s : State) : Prop :=
  Memory.wf s.storage ∧ ∀ cell ∈ s.storage, cell.1 < 2 ^ s.cfg.addrW

/-- The invariant: valid parameters, the register invariants and widths, and storage in form. -/
abbrev State.Inv (s : State) : Prop :=
  s.cfg.Valid ∧ s.regs.Inv s.cfg ∧ s.regs.FitsWidths s.cfg ∧ s.StorageOk

/-- A state a run may start at (70 R188): it meets the invariants. That nothing is pending and nothing is observed yet is the
model's choice, which 70 R188 and 92 D32 do not ask of a named start state (DESIGN CHOICE, log entry 24). -/
abbrev State.Launch (s : State) : Prop :=
  s.Inv ∧ s.pending = Slots.none ∧ s.responses = [] ∧ s.hostReads = [] ∧ s.samples = []

/-- The present run is ended: no port has a pending command, so every command issued has its response, and no agent issues
another before the POR that would start a new run (70 R187). H may still read. -/
abbrev State.Ended (s : State) : Prop := s.pending = Slots.none ∧ issuesAgain s.script = false

/-- The present run is marked faulted: the block entered FAULTED (60 R172; 70 R187). Only POR leaves FAULTED (60 R164), and POR
starts a new run, so the mark holds to the end of the run (log entry 18). The other mark is a step that answers a fault. -/
def State.runFaulted (s : State) : Bool := s.regs.lifecycle == .faulted

/-- The same mark of a run that POR ended. -/
def RunRecord.runFaulted (r : RunRecord) : Bool := r.regs.lifecycle == .faulted

/-- A good final state: the present run is ended, is not faulted, and no host access still to come faults it (70 R187). -/
abbrev State.GoodFinal (s : State) : Prop := s.Ended ∧ s.runFaulted = false ∧ s.hostStopsRun s.script = false

/-- From `s` to `t` exactly one response was returned, to the port whose command was performed (30 R80). -/
abbrev State.Answered (s t : State) (st : Status) (v : Reg) : Prop :=
  t.responses = { port := s.issuer, word := responseWord st v } :: s.responses

/-- The environment of the block is the same in `s` and `t`: parameters, pending commands, moves to come, issuing port,
what H and the platform have observed, and the runs before. -/
abbrev State.SameEnvironment (s t : State) : Prop :=
  t.cfg = s.cfg ∧ t.pending = s.pending ∧ t.script = s.script ∧ t.issuer = s.issuer ∧
  t.hostReads = s.hostReads ∧ t.samples = s.samples ∧ t.earlier = s.earlier ∧ t.turn = s.turn

/-- Every byte of storage reads in `t` as in `s`. -/
abbrev State.SameStorage (s t : State) : Prop :=
  ∀ a, Memory.byteAt t.storage a = Memory.byteAt s.storage a

/-- The conditions of 60 R161 in its order: the status of the first that applies to a command. -/
def statusByPriority (i : Instr) (s : State) : Status :=
  if i.legalAt s.issuer = false then .illegalCommand
  else if s.regs.lifecycle = .faulted then .faulted
  else match i with
    | .setbase _ | .deinit => .ok
    | .init _ mode cap =>
      if s.regs.lifecycle = .bound then .alreadyBound
      else if capValid s.cfg cap mode = false then .invalidCapacity
      else if storageValid s.cfg s.regs.cfgBase.toNat cap = false then .invalidStorage
      else .ok
    | .write _ =>
      if s.regs.lifecycle = .unbound then .notBound
      else if s.regs.pol = .reject ∧ s.regs.isFull = true then .bufferFull
      else .ok
    | .read =>
      if s.regs.lifecycle = .unbound then .notBound
      else if s.regs.isEmpty = true then .bufferEmpty
      else .ok
    | .reset | .isEmpty | .isFull | .size | .capacity =>
      if s.regs.lifecycle = .unbound then .notBound else .ok

end Sys2Proof.Machine
end

