-- ==== Sys2Proof/Certificates/Slice0/Obligations.lean ====
section
/-! DEFINITION. The statements for the provers. A state `s` stands for every state: every configuration, every script, every
content of storage. A rule is cited as its file's number and R<n>. -/
open Sys2Proof Sys2Proof.Machine

/-! ## Encoding (30) -/

/-- 30 R72 to R77, R84: the encoded word of every well-formed command decodes to that command, with every operand. -/
def Obligations.EncodedCommandDecodesToItself : Prop :=
  ∀ i : Instr, i.WellFormed → decode (encode i) = .ok i

/-- 30 R70 to R77: a word has one meaning. What the decoder reads is well-formed and encodes back to the very word. -/
def Obligations.DecodedWordEncodesBack : Prop :=
  ∀ (cw : Word) (i : Instr), decode cw = .ok i → i.WellFormed ∧ encode i = cw

/-- 30 R77: the opcode map is the table, a word spells a row's command exactly when it has the row's fixed bits, it spells at
most one, the decoder reads a command of the row it spells, and each command has the ports of its row. -/
def Obligations.OpcodeMapDecidesWhatAWordSpells : Prop :=
  (OpRow.table.map fun r => (r.mnemonic, r.fixed, r.mask)) =
    [("SETBASE", 0x10000000#32, 0xFF000000#32), ("INIT", 0x20000000#32, 0xF3000000#32),
     ("DEINIT", 0x30000000#32, 0xFFFFFFFF#32), ("RESET", 0x40000000#32, 0xFFFFFFFF#32),
     ("WRITE", 0x50000000#32, 0xFFFFFF00#32), ("READ", 0x60000000#32, 0xFFFFFFFF#32),
     ("ISEMPTY", 0x70000000#32, 0xFFFFFFFF#32), ("ISFULL", 0x80000000#32, 0xFFFFFFFF#32),
     ("SIZE", 0x90000000#32, 0xFFFFFFFF#32), ("CAPACITY", 0xA0000000#32, 0xFFFFFFFF#32)] ∧
  (∀ (cw : Word) (row : OpRow), row ∈ OpRow.table →
    (row.spells cw = true ↔ cw &&& row.mask = row.fixed) ∧
    (row.spells cw = true ↔ ∃ i, decode cw = .ok i ∧ i.row = row)) ∧
  (∀ (cw : Word) (row row' : OpRow), row ∈ OpRow.table → row' ∈ OpRow.table →
    row.spells cw = true → row'.spells cw = true → row = row') ∧
  (∀ i : Instr, ([Port.K, .P, .C].filter i.legalAt) =
    match i with
    | .setbase _ | .init _ _ _ | .deinit | .reset => [.K]
    | .write _ => [.P]
    | .read => [.C]
    | .isEmpty | .isFull | .size | .capacity => [.K, .P, .C])

/-- 30 R78: a word with a reserved opcode, and a word with a legal opcode and a bit set in a reserved field (1 in the mask, 0 in
the match), spells no command; every word that spells none is answered ILLEGAL_COMMAND and changes nothing else; the all-zero
word is one. -/
def Obligations.UnspelledWordsAreIllegal : Prop :=
  (∀ cw : Word, opcode cw = 0x0#4 ∨ 0xB ≤ (opcode cw).toNat → ∀ row ∈ OpRow.table, row.spells cw = false) ∧
  (∀ (cw : Word) (row : OpRow), row ∈ OpRow.table → opcode cw = opcode row.fixed →
    cw &&& (row.mask &&& ~~~row.fixed) ≠ 0#32 → ∀ row' ∈ OpRow.table, row'.spells cw = false) ∧
  (∀ (cw : Word) (s : State), (∀ row ∈ OpRow.table, row.spells cw = false) →
    perform cw s = .next (s.respond .illegalCommand 0)) ∧
  (∀ row ∈ OpRow.table, row.spells 0x00000000#32 = false)

/-- 30 R86: the eight examples of encodings, both ways. -/
def Obligations.EncodingExamplesDecode : Prop :=
  ∀ x ∈ [(Instr.setbase 0x0100, 0x10000100#32), (.init .reject .mask 16, 0x20000010#32),
         (.init .overwrite .modulo 16, 0x2C000010#32), (.init .overwrite .mask 8, 0x28000008#32),
         (.init .reject .modulo 3, 0x24000003#32), (.write 0x61, 0x50000061#32),
         (.read, 0x60000000#32), (.size, 0x90000000#32)],
    encode x.1 = x.2 ∧ decode x.2 = .ok x.1

/-- 30 R81: the order of decoding. A word that spells no command is answered ILLEGAL_COMMAND; else a command not legal at its
port is; else the command's rule is performed. -/
def Obligations.DecodeThenPortThenRule : Prop :=
  ∀ (cw : Word) (s : State),
    ((∀ row ∈ OpRow.table, ¬ cw &&& row.mask = row.fixed) → perform cw s = .next (s.respond .illegalCommand 0)) ∧
    (∀ i, decode cw = .ok i → i.legalAt s.issuer = false → perform cw s = .next (s.respond .illegalCommand 0)) ∧
    (∀ i, decode cw = .ok i → i.legalAt s.issuer = true → perform cw s = exec i s)

/-- 30 R79: the port-legality matrix, and the answer to a command at a port where it is not legal. -/
def Obligations.CommandAtWrongPortIsIllegal : Prop :=
  (∀ p : Port,
    (∀ base, (Instr.setbase base).legalAt p = true ↔ p = .K) ∧
    (∀ pol mode cap, (Instr.init pol mode cap).legalAt p = true ↔ p = .K) ∧
    (Instr.deinit.legalAt p = true ↔ p = .K) ∧ (Instr.reset.legalAt p = true ↔ p = .K) ∧
    (∀ d, (Instr.write d).legalAt p = true ↔ p = .P) ∧ (Instr.read.legalAt p = true ↔ p = .C) ∧
    Instr.isEmpty.legalAt p = true ∧ Instr.isFull.legalAt p = true ∧ Instr.size.legalAt p = true ∧
    Instr.capacity.legalAt p = true) ∧
  (∀ (i : Instr) (s : State), i.legalAt s.issuer = false → exec i s = .next (s.respond .illegalCommand 0))

/-- 30 R80: a command ARB takes is performed, and every word performed gets exactly one response word, at the port that issued
it, with the status in bits 31:28, zeros in 27:24 and the value in 23:0, which is 0 unless the status is OK. -/
def Obligations.ServedCommandGetsOneResponseWord : Prop :=
  (∀ (s : State) (port : Port) (rest : List Move) (cw : Word),
    s.script = .serve port :: rest → s.pending.get port = some cw →
    step s = perform cw (s.take port rest) ∧ (s.take port rest).issuer = port ∧
    (s.take port rest).responses = s.responses) ∧
  (∀ (s : State) (cw : Word), s.Inv →
    ∃ (t : State) (st : Status) (v : Reg) (w : Word), perform cw s = .next t ∧
      t.responses = { port := s.issuer, word := w } :: s.responses ∧
      w.extractLsb' 28 4 = statusCode st ∧ w.extractLsb' 24 4 = 0#4 ∧ w.extractLsb' 0 24 = v ∧
      (st ≠ .ok → v = 0))

/-- 30 R82: the status numbers; 0x9 to 0xF are never returned. -/
def Obligations.StatusNumbersAreTabled : Prop :=
  statusCode .ok = 0x0 ∧ statusCode .bufferFull = 0x1 ∧ statusCode .bufferEmpty = 0x2 ∧
  statusCode .invalidCapacity = 0x3 ∧ statusCode .invalidStorage = 0x4 ∧ statusCode .notBound = 0x5 ∧
  statusCode .alreadyBound = 0x6 ∧ statusCode .illegalCommand = 0x7 ∧ statusCode .faulted = 0x8 ∧
  ∀ st, (statusCode st).toNat ≤ 0x8

/-! ## The step, the ports and the serialisation order (00, 10, 20, 60) -/

/-- 00 R7, 30 R81: when ARB takes a port whose pending word decodes to a command, the step is that command's meaning, at the state
in which the word is no longer pending, the port is the issuer, and the move is past. -/
def Obligations.StepPerformsTheDecodedCommand : Prop :=
  ∀ (s : State) (port : Port) (rest : List Move) (cw : Word) (i : Instr),
    s.script = .serve port :: rest → s.pending.get port = some cw → decode cw = .ok i →
    step s = exec i (s.take port rest) ∧
    (s.take port rest).issuer = port ∧ (s.take port rest).script = rest ∧
    (s.take port rest).pending.get port = none ∧
    (∀ q, q ≠ port → (s.take port rest).pending.get q = s.pending.get q) ∧
    (s.take port rest).cfg = s.cfg ∧ (s.take port rest).regs = s.regs ∧
    (s.take port rest).storage = s.storage ∧ (s.take port rest).responses = s.responses ∧
    (s.take port rest).hostReads = s.hostReads ∧ (s.take port rest).samples = s.samples ∧
    (s.take port rest).earlier = s.earlier ∧ (s.take port rest).turn = s.turn

/-- 00 R12: with no move left, a step performs some pending command; which one is ARB's (log entry 3: the model lets the block
serve as soon as the script is empty). -/
def Obligations.EmptyScriptServesAPendingCommand : Prop :=
  ∀ s : State, s.script = [] → s.pending ≠ Slots.none →
    ∃ (port : Port) (cw : Word), s.pending.get port = some cw ∧
      step s = perform cw (State.take port [] { s with turn := s.turn + 1 })

/-- 10 R42: a port with no pending command accepts the word its agent issues; a port with one performs that one first, and the
agent's word waits (log entry 4). -/
def Obligations.PortHoldsOnePendingCommand : Prop :=
  ∀ (s : State) (port : Port) (rest : List Move) (cw : Word), s.script = .issue port cw :: rest →
    (s.pending.get port = none → ∃ t, step s = .next t ∧ t.pending.get port = some cw ∧
      (∀ q, q ≠ port → t.pending.get q = s.pending.get q) ∧ t.script = rest ∧
      t.regs = s.regs ∧ t.storage = s.storage ∧ t.responses = s.responses) ∧
    (∀ old, s.pending.get port = some old → step s = perform old (s.take port s.script))

/-- 00 R12, R13, 20 R64: progress. With no move left, three steps from a state that meets the invariants leave no port with a
pending command, whatever ARB chooses and whatever words are pending (log entry 3). -/
def Obligations.PendingCommandsComplete : Prop :=
  ∀ s : State, s.Inv → s.script = [] →
    ∃ t1 t2 t3, step s = .next t1 ∧ step t1 = .next t2 ∧ step t2 = .next t3 ∧ t3.pending = Slots.none

/-- 60 R162: a WRITE pending at P and a READ pending at C under REJECT, with each order of ARB. The first case is for a buffer that
is empty and not also full (a capacity above 1, 40 R108), the second for one that is full and not also empty. -/
def Obligations.ConcurrentWriteAndReadInEitherOrder : Prop :=
  ∀ (s : State) (d : Nat), s.Inv → d < 2 ^ 8 → s.regs.lifecycle = .bound → s.regs.pol = .reject →
    s.pending.get .P = some (encode (.write d)) → s.pending.get .C = some (encode .read) →
    ∃ w w' r r' : State,
      step { s with script := [.serve .P, .serve .C] } = .next w ∧ step w = .next w' ∧
      step { s with script := [.serve .C, .serve .P] } = .next r ∧ step r = .next r' ∧
      (s.regs.isEmpty = true → s.regs.isFull = false →
        w'.responses = [{ port := .C, word := responseWord .ok (BitVec.ofNat 24 d) },
                        { port := .P, word := responseWord .ok 0 }] ++ s.responses ∧
        r'.responses = [{ port := .P, word := responseWord .ok 0 },
                        { port := .C, word := responseWord .bufferEmpty 0 }] ++ s.responses) ∧
      (s.regs.isEmpty = false → s.regs.isFull = true →
        w'.responses = [{ port := .C, word := responseWord .ok ((s.unread 0).setWidth 24) },
                        { port := .P, word := responseWord .bufferFull 0 }] ++ s.responses ∧
        r'.responses = [{ port := .P, word := responseWord .ok 0 },
                        { port := .C, word := responseWord .ok ((s.unread 0).setWidth 24) }] ++ s.responses) ∧
      (s.regs.isEmpty = false → s.regs.isFull = false →
        w'.responses = [{ port := .C, word := responseWord .ok ((s.unread 0).setWidth 24) },
                        { port := .P, word := responseWord .ok 0 }] ++ s.responses ∧
        r'.responses = [{ port := .P, word := responseWord .ok 0 },
                        { port := .C, word := responseWord .ok ((s.unread 0).setWidth 24) }] ++ s.responses ∧
        w'.regs = r'.regs ∧ w'.SameStorage r')

/-! ## Lifecycle commands (41) -/

/-- 41 R112: SETBASE. -/
def Obligations.SetbaseLoadsTheNextBase : Prop :=
  ∀ (s : State) (base : Nat), base < 2 ^ 24 →
    encode (.setbase base) = 0x10000000#32 ||| BitVec.ofNat 32 base ∧
    (s.issuer ≠ .K → exec (.setbase base) s = .next (s.respond .illegalCommand 0)) ∧
    (s.issuer = .K → s.regs.lifecycle = .faulted → exec (.setbase base) s = .next (s.respond .faulted 0)) ∧
    (s.issuer = .K → s.regs.lifecycle ≠ .faulted →
      ∃ t, exec (.setbase base) s = .next t ∧ t.regs.cfgBase.toNat = base ∧
        t.regs = { s.regs with cfgBase := t.regs.cfgBase } ∧ t.storage = s.storage ∧
        s.SameEnvironment t ∧ s.Answered t .ok 0)

/-- 41 R113, with `cap_valid` of R110 and `storage_valid` of R111: every outcome of INIT. -/
def Obligations.InitBindsOrRefuses : Prop :=
  ∀ (s : State) (pol : Policy) (mode : IndexMode) (cap : Nat), s.cfg.Valid → cap < 2 ^ 24 →
    encode (.init pol mode cap) =
      0x20000000#32 ||| (if pol = .overwrite then 0x08000000#32 else 0#32) |||
        (if mode = .modulo then 0x04000000#32 else 0#32) ||| BitVec.ofNat 32 cap ∧
    (s.issuer ≠ .K → exec (.init pol mode cap) s = .next (s.respond .illegalCommand 0)) ∧
    (s.issuer = .K → s.regs.lifecycle = .faulted → exec (.init pol mode cap) s = .next (s.respond .faulted 0)) ∧
    (s.issuer = .K → s.regs.lifecycle = .bound → exec (.init pol mode cap) s = .next (s.respond .alreadyBound 0)) ∧
    (s.issuer = .K → s.regs.lifecycle = .unbound →
      ¬ (1 ≤ cap ∧ cap ≤ s.cfg.capMax ∧ (mode = .modulo ∨ ∃ k, cap = 2 ^ k)) →
      exec (.init pol mode cap) s =
        .next (State.respond .invalidCapacity 0 { s with regs := { s.regs with lifecycle := .faulted } })) ∧
    (s.issuer = .K → s.regs.lifecycle = .unbound →
      1 ≤ cap ∧ cap ≤ s.cfg.capMax ∧ (mode = .modulo ∨ ∃ k, cap = 2 ^ k) →
      ¬ s.regs.cfgBase.toNat + cap ≤ 2 ^ s.cfg.addrW →
      exec (.init pol mode cap) s =
        .next (State.respond .invalidStorage 0 { s with regs := { s.regs with lifecycle := .faulted } })) ∧
    (s.issuer = .K → s.regs.lifecycle = .unbound →
      1 ≤ cap ∧ cap ≤ s.cfg.capMax ∧ (mode = .modulo ∨ ∃ k, cap = 2 ^ k) →
      s.regs.cfgBase.toNat + cap ≤ 2 ^ s.cfg.addrW →
      ∃ t, exec (.init pol mode cap) s = .next t ∧
        t.regs = { lifecycle := .bound, cfgBase := s.regs.cfgBase, base := s.regs.cfgBase, cap := BitVec.ofNat 24 cap,
                   pol := pol, mode := mode, ridx := 0, widx := 0, fullf := false } ∧
        t.regs.cap.toNat = cap ∧ t.storage = s.storage ∧ s.SameEnvironment t ∧ s.Answered t .ok 0)

/-- 41 R114: DEINIT. -/
def Obligations.DeinitReleasesTheInstance : Prop :=
  encode .deinit = 0x30000000#32 ∧
  ∀ s : State,
    (s.issuer ≠ .K → exec .deinit s = .next (s.respond .illegalCommand 0)) ∧
    (s.issuer = .K → s.regs.lifecycle = .faulted → exec .deinit s = .next (s.respond .faulted 0)) ∧
    (s.issuer = .K → s.regs.lifecycle = .unbound → exec .deinit s = .next (s.respond .ok 0)) ∧
    (s.issuer = .K → s.regs.lifecycle = .bound →
      ∃ t, exec .deinit s = .next t ∧
        t.regs = { lifecycle := .unbound, cfgBase := s.regs.cfgBase, base := 0, cap := 0, pol := .reject,
                   mode := .mask, ridx := 0, widx := 0, fullf := false } ∧
        t.storage = s.storage ∧ s.SameEnvironment t ∧ s.Answered t .ok 0)

/-- 41 R115: RESET. -/
def Obligations.ResetEmptiesTheInstance : Prop :=
  encode .reset = 0x40000000#32 ∧
  ∀ s : State,
    (s.issuer ≠ .K → exec .reset s = .next (s.respond .illegalCommand 0)) ∧
    (s.issuer = .K → s.regs.lifecycle = .faulted → exec .reset s = .next (s.respond .faulted 0)) ∧
    (s.issuer = .K → s.regs.lifecycle = .unbound → exec .reset s = .next (s.respond .notBound 0)) ∧
    (s.issuer = .K → s.regs.lifecycle = .bound →
      ∃ t, exec .reset s = .next t ∧ t.regs = { s.regs with ridx := 0, widx := 0, fullf := false } ∧
        t.storage = s.storage ∧ s.SameEnvironment t ∧ s.Answered t .ok 0)

/-- 41 R116: two RESETs in a row leave the registers and storage one leaves, the buffer empty, and storage as before both. -/
def Obligations.ResetIsIdempotent : Prop :=
  ∀ s : State, s.issuer = .K → s.regs.lifecycle = .bound →
    ∃ t u, exec .reset s = .next t ∧ exec .reset t = .next u ∧ u.regs = t.regs ∧ u.storage = t.storage ∧
      t.storage = s.storage ∧ t.regs.isEmpty = true ∧ t.regs.size = 0

/-- 41 R118: after an INIT or RESET answered OK the buffer is empty, and a READ answers BUFFER_EMPTY and changes no index. -/
def Obligations.FreshBufferReadsEmpty : Prop :=
  ∀ (s t : State) (i : Instr), i = .reset ∨ (∃ pol mode cap, i = .init pol mode cap) →
    exec i s = .next t → s.Answered t .ok 0 →
    t.regs.isEmpty = true ∧ t.regs.size = 0 ∧
    ∃ u, performAt .C .read t = .next u ∧
      u.responses = { port := .C, word := responseWord .bufferEmpty 0 } :: t.responses ∧
      u.regs = t.regs ∧ u.storage = t.storage

/-- 30 R85: SETUP is SETBASE and then INIT, two commands at port K. From an unbound block, with parameters that fit, they bind an
empty instance at the base. -/
def Obligations.SetupBindsAnInstance : Prop :=
  ∀ (s : State) (base cap : Nat) (pol : Policy) (mode : IndexMode),
    setup base pol mode cap = [.setbase base, .init pol mode cap] ∧
    (s.cfg.Valid → base < 2 ^ 24 → s.regs.lifecycle = .unbound → 1 ≤ cap → cap ≤ s.cfg.capMax →
      (mode = .modulo ∨ ∃ k, cap = 2 ^ k) → base + cap ≤ 2 ^ s.cfg.addrW →
      ∃ t, performAll ((setup base pol mode cap).map fun i => (Port.K, i)) s = .next t ∧
        t.responses = [{ port := .K, word := responseWord .ok 0 }, { port := .K, word := responseWord .ok 0 }]
          ++ s.responses ∧
        t.regs.lifecycle = .bound ∧ t.regs.base.toNat = base ∧ t.regs.cap.toNat = cap ∧ t.regs.pol = pol ∧
        t.regs.mode = mode ∧ t.regs.size = 0 ∧ t.storage = s.storage)

/-! ## Data transfer (42) -/

/-- 42 R125: every outcome of WRITE. -/
def Obligations.WriteAppendsOrRefuses : Prop :=
  ∀ (s : State) (d : Nat), s.Inv → d < 2 ^ 8 →
    encode (.write d) = 0x50000000#32 ||| BitVec.ofNat 32 d ∧
    (s.issuer ≠ .P → exec (.write d) s = .next (s.respond .illegalCommand 0)) ∧
    (s.issuer = .P → s.regs.lifecycle = .faulted → exec (.write d) s = .next (s.respond .faulted 0)) ∧
    (s.issuer = .P → s.regs.lifecycle = .unbound → exec (.write d) s = .next (s.respond .notBound 0)) ∧
    (s.issuer = .P → s.regs.lifecycle = .bound → s.regs.pol = .reject →
      s.regs.next s.regs.widx.toNat = s.regs.ridx.toNat →
      exec (.write d) s = .next (s.respond .bufferFull 0)) ∧
    (s.issuer = .P → s.regs.lifecycle = .bound → s.regs.pol = .reject →
      s.regs.next s.regs.widx.toNat ≠ s.regs.ridx.toNat →
      ∃ t, exec (.write d) s = .next t ∧
        (Memory.byteAt t.storage (s.regs.base.toNat + s.regs.widx.toNat)).toNat = d ∧
        t.regs.widx.toNat = s.regs.next s.regs.widx.toNat ∧ t.regs = { s.regs with widx := t.regs.widx } ∧
        s.Answered t .ok 0) ∧
    (s.issuer = .P → s.regs.lifecycle = .bound → s.regs.pol = .overwrite →
      ∃ t, exec (.write d) s = .next t ∧
        (Memory.byteAt t.storage (s.regs.base.toNat + s.regs.widx.toNat)).toNat = d ∧
        t.regs.widx.toNat = s.regs.next s.regs.widx.toNat ∧
        t.regs.ridx.toNat =
          (if s.regs.fullf = true then s.regs.next s.regs.ridx.toNat else s.regs.ridx.toNat) ∧
        (t.regs.fullf = true ↔ t.regs.widx = t.regs.ridx) ∧
        t.regs = { s.regs with widx := t.regs.widx, ridx := t.regs.ridx, fullf := t.regs.fullf } ∧
        s.Answered t .ok 0)

/-- 42 R126: every outcome of READ. -/
def Obligations.ReadReturnsTheOldestByte : Prop :=
  encode .read = 0x60000000#32 ∧
  ∀ s : State, s.Inv →
    (s.issuer ≠ .C → exec .read s = .next (s.respond .illegalCommand 0)) ∧
    (s.issuer = .C → s.regs.lifecycle = .faulted → exec .read s = .next (s.respond .faulted 0)) ∧
    (s.issuer = .C → s.regs.lifecycle = .unbound → exec .read s = .next (s.respond .notBound 0)) ∧
    (s.issuer = .C → s.regs.lifecycle = .bound → s.regs.ridx = s.regs.widx ∧ s.regs.fullf = false →
      exec .read s = .next (s.respond .bufferEmpty 0)) ∧
    (s.issuer = .C → s.regs.lifecycle = .bound → ¬ (s.regs.ridx = s.regs.widx ∧ s.regs.fullf = false) →
      ∃ t v, exec .read s = .next t ∧ s.Answered t .ok v ∧
        v.toNat = (Memory.byteAt s.storage (s.regs.base.toNat + s.regs.ridx.toNat)).toNat ∧
        t.regs.ridx.toNat = s.regs.next s.regs.ridx.toNat ∧
        t.regs = { s.regs with ridx := t.regs.ridx, fullf := false } ∧ t.storage = s.storage)

/-- 42 R129: the effect of every command on the logical content, in a state that meets the invariants. -/
def Obligations.CommandsActOnContentAsFifo : Prop :=
  ∀ s : State, s.Inv →
    (s.regs.lifecycle = .bound → s.issuer = .P → ∀ d, d < 2 ^ 8 →
      (s.regs.isFull = false →
        ∃ t, exec (.write d) s = .next t ∧ s.Answered t .ok 0 ∧ t.content = s.content ++ [BitVec.ofNat 8 d]) ∧
      (s.regs.isFull = true → s.regs.pol = .overwrite →
        ∃ t, exec (.write d) s = .next t ∧ s.Answered t .ok 0 ∧ t.content = s.content.tail ++ [BitVec.ofNat 8 d] ∧
          t.content.length = s.regs.cap.toNat ∧ s.content.length = s.regs.cap.toNat) ∧
      (s.regs.isFull = true → s.regs.pol = .reject →
        ∃ t, exec (.write d) s = .next t ∧ s.Answered t .bufferFull 0 ∧ t.content = s.content ∧
          t.storage = s.storage)) ∧
    (s.regs.lifecycle = .bound → s.issuer = .C →
      (∀ b rest, s.content = b :: rest →
        ∃ t, exec .read s = .next t ∧ s.Answered t .ok (b.setWidth 24) ∧ t.content = rest) ∧
      (s.content = [] →
        ∃ t, exec .read s = .next t ∧ s.Answered t .bufferEmpty 0 ∧ t.content = [])) ∧
    (∀ t, exec .reset s = .next t → s.Answered t .ok 0 → t.content = []) ∧
    (∀ pol mode cap t, exec (.init pol mode cap) s = .next t → s.Answered t .ok 0 → t.content = []) ∧
    (∀ i t, i = .isEmpty ∨ i = .isFull ∨ i = .size ∨ i = .capacity ∨ (∃ base, i = .setbase base) →
      exec i s = .next t → t.content = s.content)

/-- 42 R127 to R131, R134; 43 R140 to R145: refinement. Whatever sequence of data and query commands is serialised, each at a port
that may issue it, the block answers what a bounded byte queue answers, and stands for the same queue afterwards. -/
def Obligations.CommandsRefineAByteQueue : Prop :=
  ∀ (s : State) (cmds : List (Port × Instr)), s.Inv → s.regs.lifecycle = .bound →
    (∀ c ∈ cmds, c.2.legalAt c.1 = true ∧ (s.queue.perform c.2).isSome = true) →
    ∃ t, performAll cmds s = .next t ∧ t.queue = (s.queue.performAll cmds).1 ∧
      t.responses = (s.queue.performAll cmds).2.reverse ++ s.responses

/-- 42 R130: from an empty instance, WRITEs of at most `usable()` bytes and READs, interleaved in any order in which no READ is
answered BUFFER_EMPTY: every WRITE is answered OK, and the READs return the bytes in the order written. -/
def Obligations.TransfersReturnBytesInOrder : Prop :=
  ∀ (s : State) (cmds : List (Port × Instr)), s.Inv → s.regs.lifecycle = .bound → s.regs.size = 0 →
    (∀ c ∈ cmds, isTransfer c = true) → (writtenBytes cmds).length ≤ s.regs.usable →
    ∃ t new, performAll cmds s = .next t ∧ t.responses = new ++ s.responses ∧
      ((∀ r ∈ new, r.word ≠ responseWord .bufferEmpty 0) →
        (∀ r ∈ new, r.port = .P → r.word = responseWord .ok 0) ∧
        new.reverse.filter (fun r => r.port == .C) =
          ((writtenBytes cmds).take (readCount cmds)).map fun b =>
            { port := .C, word := responseWord .ok (b.setWidth 24) })

/-- 42 R131: from an empty instance, after WRITEs and READs of which no WRITE finds the buffer full, the size is the number of
WRITEs answered OK less the number of READs answered OK. -/
def Obligations.SizeCountsWritesLessReads : Prop :=
  ∀ (s t : State) (cmds : List (Port × Instr)) (new : List Response), s.Inv → s.regs.lifecycle = .bound →
    s.regs.size = 0 → (∀ c ∈ cmds, isTransfer c = true) →
    (∀ before d after u, cmds = before ++ (Port.P, Instr.write d) :: after → performAll before s = .next u →
      u.regs.isFull = false) →
    performAll cmds s = .next t → t.responses = new ++ s.responses →
    t.regs.size + okCount .C new = okCount .P new

/-- 42 R132: from a state with no unread byte (after an INIT or RESET answered OK, or unbound), whatever commands are serialised at
whatever ports, a READ answered OK returns the byte of a WRITE among them that was answered OK, and no INIT and no RESET after
that WRITE was answered OK, so it is a WRITE of the same instance since the last of them. -/
def Obligations.ReadsReturnOnlyWrittenBytes : Prop :=
  ∀ (s t u : State) (cmds : List (Port × Instr)) (v : Reg), s.Inv → (s.regs.lifecycle = .bound → s.regs.size = 0) →
    performAll cmds s = .next t → performAt .C .read t = .next u →
    u.responses = { port := .C, word := responseWord .ok v } :: t.responses →
    ∃ (before after : List (Port × Instr)) (d : Nat) (m w : State),
      cmds = before ++ (Port.P, Instr.write d) :: after ∧ performAll before s = .next m ∧
      performAt .P (.write d) m = .next w ∧ w.responses = { port := .P, word := responseWord .ok 0 } :: m.responses ∧
      v = (BitVec.ofNat 8 d).setWidth 24 ∧
      ∀ (mid rest : List (Port × Instr)) (p : Port) (i : Instr) (x y : State),
        after = mid ++ (p, i) :: rest → i = .reset ∨ (∃ pol mode cap, i = .init pol mode cap) →
        performAll mid w = .next x → performAt p i x = .next y →
        y.responses ≠ { port := p, word := responseWord .ok 0 } :: x.responses

/-- 42 R135: the transitions among the states Empty, Partial and Full. -/
def Obligations.FillStateTransitions : Prop :=
  ∀ s t : State, s.Inv → s.regs.lifecycle = .bound →
    (∀ d, s.issuer = .P → exec (.write d) s = .next t →
      (s.regs.fill ≠ .full → s.Answered t .ok 0 →
        t.regs.fill = if t.regs.size < t.regs.usable then .partly else .full) ∧
      (s.regs.fill = .full → s.regs.pol = .overwrite → s.Answered t .ok 0 ∧ t.regs.fill = .full) ∧
      (s.regs.fill = .full → s.regs.pol = .reject → s.Answered t .bufferFull 0 ∧ t.regs.fill = .full)) ∧
    (s.issuer = .C → exec .read s = .next t →
      (s.regs.fill ≠ .empty → t.regs.fill = if 0 < t.regs.size then .partly else .empty) ∧
      (s.regs.fill = .empty → s.Answered t .bufferEmpty 0 ∧ t.regs.fill = .empty))

/-! ## Queries (43) -/

/-- 43 R140 to R143: every outcome of the four queries, at every port. -/
def Obligations.QueriesAnswerFromTheRegisters : Prop :=
  encode .isEmpty = 0x70000000#32 ∧ encode .isFull = 0x80000000#32 ∧ encode .size = 0x90000000#32 ∧
  encode .capacity = 0xA0000000#32 ∧
  ∀ s : State, s.Inv →
    (∀ q, q = .isEmpty ∨ q = .isFull ∨ q = .size ∨ q = .capacity →
      (s.regs.lifecycle = .faulted → exec q s = .next (s.respond .faulted 0)) ∧
      (s.regs.lifecycle = .unbound → exec q s = .next (s.respond .notBound 0))) ∧
    (s.regs.lifecycle = .bound →
      exec .isEmpty s = .next (s.respond .ok (if s.regs.isEmpty = true then 1 else 0)) ∧
      exec .isFull s = .next (s.respond .ok (if s.regs.isFull = true then 1 else 0)) ∧
      (∃ v : Reg, v.toNat = s.regs.size ∧ exec .size s = .next (s.respond .ok v)) ∧
      exec .capacity s = .next (s.respond .ok s.regs.cap))

/-- 43 R144: a query writes no register and no storage, and asked again at any port after queries and SETBASEs only, it gets
the same response word. -/
def Obligations.QueriesChangeNothing : Prop :=
  ∀ (s t : State) (q : Instr), q = .isEmpty ∨ q = .isFull ∨ q = .size ∨ q = .capacity → exec q s = .next t →
    t.regs = s.regs ∧ t.storage = s.storage ∧ s.SameEnvironment t ∧
    (∃ r, t.responses = r :: s.responses) ∧
    ∀ (between : List (Port × Instr)) (p : Port) (u w : State),
      (∀ c ∈ between, c.2 = .isEmpty ∨ c.2 = .isFull ∨ c.2 = .size ∨ c.2 = .capacity ∨ ∃ base, c.2 = .setbase base) →
      performAll between t = .next u → performAt p q u = .next w →
      w.responses.head?.map Response.word = t.responses.head?.map Response.word

/-- 43 R145: in every bound state the four queries agree. -/
def Obligations.QueriesAgree : Prop :=
  ∀ s : State, s.Inv → s.regs.lifecycle = .bound →
    ∃ (te tf ts tc : State) (e f n c : Reg),
      exec .isEmpty s = .next te ∧ s.Answered te .ok e ∧ exec .isFull s = .next tf ∧ s.Answered tf .ok f ∧
      exec .size s = .next ts ∧ s.Answered ts .ok n ∧ exec .capacity s = .next tc ∧ s.Answered tc .ok c ∧
      (e = 1 ↔ n = 0) ∧ (e = 0 ∨ e = 1) ∧
      (f = 1 ↔ n.toNat = if s.regs.pol = .reject then c.toNat - 1 else c.toNat) ∧ (f = 0 ∨ f = 1)

/-! ## Frames (10 R36) -/

/-- 10 R36, the rows of SETBASE, INIT, DEINIT and RESET: what each leaves unchanged, storage included. -/
def Obligations.LifecycleCommandsKeepTheRest : Prop :=
  ∀ (s t : State) (i : Instr), exec i s = .next t →
    ((∃ base, i = .setbase base) → t.regs = { s.regs with cfgBase := t.regs.cfgBase }) ∧
    ((∃ pol mode cap, i = .init pol mode cap) → t.regs.cfgBase = s.regs.cfgBase) ∧
    (i = .deinit → t.regs.cfgBase = s.regs.cfgBase) ∧
    (i = .reset → t.regs = { s.regs with ridx := t.regs.ridx, widx := t.regs.widx, fullf := t.regs.fullf }) ∧
    ((∃ base, i = .setbase base) ∨ (∃ pol mode cap, i = .init pol mode cap) ∨ i = .deinit ∨ i = .reset →
      s.SameStorage t ∧ s.SameEnvironment t ∧ ∃ r, t.responses = r :: s.responses)

/-- 10 R36, the row of WRITE: it writes WIDX, under OVERWRITE on a full buffer RIDX, under OVERWRITE FULLF, and the one byte at
`BASE + WIDX`; everything else is unchanged. -/
def Obligations.WriteKeepsTheRest : Prop :=
  ∀ (s t : State) (d : Nat), exec (.write d) s = .next t →
    t.regs = { s.regs with widx := t.regs.widx, ridx := t.regs.ridx, fullf := t.regs.fullf } ∧
    (s.regs.pol = .reject ∨ s.regs.fullf = false → t.regs.ridx = s.regs.ridx) ∧
    (s.regs.pol = .reject → t.regs.fullf = s.regs.fullf) ∧
    (∀ a, a ≠ s.regs.base.toNat + s.regs.widx.toNat → Memory.byteAt t.storage a = Memory.byteAt s.storage a) ∧
    s.SameEnvironment t ∧ ∃ r, t.responses = r :: s.responses

/-- 10 R36, the row of READ: it writes RIDX and FULLF; everything else, and every storage byte, is unchanged. -/
def Obligations.ReadKeepsTheRest : Prop :=
  ∀ s t : State, exec .read s = .next t →
    t.regs = { s.regs with ridx := t.regs.ridx, fullf := t.regs.fullf } ∧ s.SameStorage t ∧
    s.SameEnvironment t ∧ ∃ r, t.responses = r :: s.responses

/-! ## Statuses and FAULTED (60) -/

/-- 60 R161: the first condition of the list that applies gives the status; every status but OK leaves every register and every
storage byte unchanged, but for STATE on the two invalid INITs. No command traps: every one answers. -/
def Obligations.StatusFollowsThePriorityList : Prop :=
  ∀ (s : State) (i : Instr), s.Inv → i.WellFormed →
    ∃ t v, exec i s = .next t ∧ s.Answered t (statusByPriority i s) v ∧
      (statusByPriority i s ≠ .ok →
        t.storage = s.storage ∧
        t.regs = { s.regs with
          lifecycle := if statusByPriority i s = .invalidCapacity ∨ statusByPriority i s = .invalidStorage
            then .faulted else s.regs.lifecycle })

/-- 60 R152 to R157: which command raises each of these statuses, on which condition, and what is recorded. -/
def Obligations.EachStatusHasItsCause : Prop :=
  ∀ (s t : State) (i : Instr) (st : Status) (v : Reg), exec i s = .next t → s.Answered t st v →
    (st = .bufferFull → (∃ d, i = .write d) ∧ s.regs.pol = .reject ∧
      s.regs.next s.regs.widx.toNat = s.regs.ridx.toNat ∧ v = 0 ∧ t.regs = s.regs ∧ t.storage = s.storage) ∧
    (st = .bufferEmpty → i = .read ∧ s.regs.isEmpty = true ∧ v = 0 ∧ t.regs = s.regs ∧ t.storage = s.storage) ∧
    (st = .invalidCapacity → ∃ pol mode cap, i = .init pol mode cap ∧ s.regs.lifecycle = .unbound ∧
      (cap = 0 ∨ s.cfg.capMax < cap ∨ mode = .mask ∧ ¬ ∃ k, cap = 2 ^ k) ∧ v = 0 ∧
      t.regs = { s.regs with lifecycle := .faulted }) ∧
    (st = .invalidStorage → ∃ pol mode cap, i = .init pol mode cap ∧ s.regs.lifecycle = .unbound ∧
      capValid s.cfg cap mode = true ∧ 2 ^ s.cfg.addrW < s.regs.cfgBase.toNat + cap ∧ v = 0 ∧
      t.regs = { s.regs with lifecycle := .faulted }) ∧
    (st = .notBound → s.regs.lifecycle = .unbound ∧
      (i = .reset ∨ (∃ d, i = .write d) ∨ i = .read ∨ i = .isEmpty ∨ i = .isFull ∨ i = .size ∨ i = .capacity) ∧
      v = 0 ∧ t.regs = s.regs ∧ t.storage = s.storage) ∧
    (st = .alreadyBound → ∃ pol mode cap, i = .init pol mode cap ∧ s.regs.lifecycle = .bound ∧ v = 0 ∧
      t.regs = s.regs ∧ t.storage = s.storage)

/-- 60 R156: RESET, WRITE, READ and the queries answer NOT_BOUND while UNBOUND and change nothing; DEINIT answers OK. -/
def Obligations.UnboundBlockAnswersNotBound : Prop :=
  ∀ (s : State) (i : Instr), s.regs.lifecycle = .unbound → i.legalAt s.issuer = true →
    (i = .reset ∨ (∃ d, i = .write d) ∨ i = .read ∨ i = .isEmpty ∨ i = .isFull ∨ i = .size ∨ i = .capacity →
      exec i s = .next (s.respond .notBound 0)) ∧
    (i = .deinit → exec i s = .next (s.respond .ok 0))

/-- 60 R160: while FAULTED every command legal at its port answers FAULTED and changes nothing. -/
def Obligations.FaultedBlockAnswersFaulted : Prop :=
  ∀ (s : State) (i : Instr), s.regs.lifecycle = .faulted → i.legalAt s.issuer = true →
    exec i s = .next (s.respond .faulted 0)

/-- 60 R158: only an INIT, for its capacity or its storage, enters FAULTED; only STATE changes, so a block that meets 10 R37 keeps
its other registers 0, and the output FAULT_O becomes 1. -/
def Obligations.OnlyInvalidInitEntersFaulted : Prop :=
  ∀ (s t : State) (i : Instr), exec i s = .next t → s.regs.lifecycle ≠ .faulted → t.regs.lifecycle = .faulted →
    (∃ pol mode cap, i = .init pol mode cap ∧
      (capValid s.cfg cap mode = false ∨ storageValid s.cfg s.regs.cfgBase.toNat cap = false)) ∧
    t.regs = { s.regs with lifecycle := .faulted } ∧ t.storage = s.storage ∧
    (s.Answered t .invalidCapacity 0 ∨ s.Answered t .invalidStorage 0) ∧
    (s.regs.ClearWhileUnbound → t.regs.ClearWhileUnbound) ∧ t.regs.outputs.faultO = true

/-- 60 R164: no step but POR leaves FAULTED, and POR leaves it. -/
def Obligations.OnlyPorLeavesFaulted : Prop :=
  ∀ s t : State, s.regs.lifecycle = .faulted → step s = .next t →
    ((∀ rest, s.script ≠ .por :: rest) → t.regs = s.regs) ∧
    (∀ rest, s.script = .por :: rest → t.regs.lifecycle = .unbound)

/-- 41 R117: the lifecycle state machine over every command legal at its port, and over POR. -/
def Obligations.LifecycleStateMachine : Prop :=
  (∀ (s t : State) (i : Instr), i.legalAt s.issuer = true → exec i s = .next t →
    t.regs.lifecycle =
      match s.regs.lifecycle, i with
      | .unbound, .init _ mode cap =>
        if capValid s.cfg cap mode = true ∧ storageValid s.cfg s.regs.cfgBase.toNat cap = true then .bound else .faulted
      | .bound, .deinit => .unbound
      | l, _ => l) ∧
  (∀ (s : State) (i : Instr), i.legalAt s.issuer = true →
    (s.regs.lifecycle = .unbound → i = .deinit → exec i s = .next (s.respond .ok 0)) ∧
    (s.regs.lifecycle = .unbound →
      i = .reset ∨ (∃ d, i = .write d) ∨ i = .read ∨ i = .isEmpty ∨ i = .isFull ∨ i = .size ∨ i = .capacity →
      exec i s = .next (s.respond .notBound 0)) ∧
    (s.regs.lifecycle = .bound → (∃ pol mode cap, i = .init pol mode cap) →
      exec i s = .next (s.respond .alreadyBound 0)) ∧
    (s.regs.lifecycle = .faulted → exec i s = .next (s.respond .faulted 0))) ∧
  (∀ (s t : State) (rest : List Move), s.script = .por :: rest → step s = .next t → t.regs.lifecycle = .unbound)

/-! ## The index unit (40) -/

/-- 40 R95, R96, R97: `next` lies in `0 .. CAP-1`, is the successor modulo CAP under both modes, and is computed by one increment
and one comparison. -/
def Obligations.NextIsTheSuccessorModuloCapacity : Prop :=
  ∀ (c : Config) (r : Regs) (i : Nat), c.Valid → r.ShapedWhileBound c → r.lifecycle = .bound → i < r.cap.toNat →
    r.next i = (if r.mode = .mask then (i + 1) &&& (r.cap.toNat - 1) else (i + 1) % r.cap.toNat) ∧
    r.next i < r.cap.toNat ∧ r.next i = (i + 1) % r.cap.toNat ∧
    r.next i = (if i + 1 = r.cap.toNat then 0 else i + 1) ∧
    i + 1 ≤ 2 ^ 24 - 1 ∧ (r.mode = .mask → i + 1 ≤ 2 ^ 23)

/-- 40 R98: `dist(w, r)` is the non-negative remainder of `w - r` by CAP, and its intermediate value is below `2^25`. -/
def Obligations.DistIsTheRemainder : Prop :=
  ∀ (r : Regs) (w i : Nat), w < r.cap.toNat → i < r.cap.toNat →
    (r.dist w i : Int) = ((w : Int) - (i : Int)) % (r.cap.toNat : Int) ∧
    r.dist w i = (if i ≤ w then w - i else w + r.cap.toNat - i) ∧
    r.dist w i < r.cap.toNat ∧ w + r.cap.toNat < 2 ^ 25

/-- 40 R100: the two forms of `is_empty()` agree. -/
def Obligations.EmptyExactlyAtSizeZero : Prop :=
  ∀ (c : Config) (r : Regs), r.Inv c → r.lifecycle = .bound →
    (r.isEmpty = true ↔ r.size = 0) ∧
    (r.pol = .reject → (r.isEmpty = true ↔ r.ridx = r.widx)) ∧
    (r.pol = .overwrite → (r.isEmpty = true ↔ r.ridx = r.widx ∧ r.fullf = false))

/-- 40 R104: `is_full()` holds exactly at `size() = CAP - 1` under REJECT and `size() = CAP` under OVERWRITE, which is `usable()`. -/
def Obligations.FullExactlyAtUsableSize : Prop :=
  ∀ (c : Config) (r : Regs), c.Valid → r.Inv c → r.lifecycle = .bound →
    (r.pol = .reject → (r.isFull = true ↔ r.size = r.cap.toNat - 1)) ∧
    (r.pol = .overwrite → (r.isFull = true ↔ r.size = r.cap.toNat)) ∧
    (r.isFull = true ↔ r.size = r.usable)

/-- 40 R105: a run of any length from a state that meets the invariants reaches only states with `size() <= usable()` while BOUND. -/
def Obligations.SizeNeverExceedsUsable : Prop :=
  ∀ (n : Nat) (s t : State), s.Inv → Sys2Proof.core.run n s = .next t → t.regs.lifecycle = .bound →
    t.regs.size ≤ t.regs.usable

/-- 42 R128: while BOUND the next write slot is the one after the newest unread byte. -/
def Obligations.WriteSlotFollowsTheNewestByte : Prop :=
  ∀ (c : Config) (r : Regs), r.Inv c → r.lifecycle = .bound →
    r.widx.toNat = (r.ridx.toNat + r.size) % r.cap.toNat

/-- 40 R108: an instance of capacity 1, in both modes and under both policies. -/
def Obligations.CapacityOneInstances : Prop :=
  ∀ s : State, s.Inv → s.regs.lifecycle = .bound → s.regs.cap = 1 →
    s.regs.next 0 = 0 ∧ s.regs.dist 0 0 = 0 ∧
    (s.regs.pol = .reject → s.regs.size = 0 ∧ s.regs.usable = 0 ∧ s.regs.isEmpty = true ∧ s.regs.isFull = true ∧
      (∀ d, performAt .P (.write d) s = .next (State.respond .bufferFull 0 { s with issuer := .P })) ∧
      performAt .C .read s = .next (State.respond .bufferEmpty 0 { s with issuer := .C })) ∧
    (s.regs.pol = .overwrite → s.regs.size = if s.regs.fullf = true then 1 else 0)

/-! ## The whole machine: registers, storage, POR, host (10, 20, 41, 70) -/

/-- 41 R119: a step that begins and ends BOUND leaves CAP as it is, and with it BASE, POL and MODE; and CAPACITY answers CAP. -/
def Obligations.CapacityIsConstantWhileBound : Prop :=
  ∀ s t : State, s.regs.lifecycle = .bound → step s = .next t → t.regs.lifecycle = .bound →
    t.regs.cap = s.regs.cap ∧ t.regs.base = s.regs.base ∧ t.regs.pol = s.regs.pol ∧ t.regs.mode = s.regs.mode ∧
    exec .capacity s = .next (s.respond .ok s.regs.cap) ∧ exec .capacity t = .next (t.respond .ok s.regs.cap)

/-- 10 R28: CFG_BASE changes only by a SETBASE pending at port K, to its operand, or by POR, to 0. -/
def Obligations.CfgBaseChangesOnlyBySetbaseOrPor : Prop :=
  ∀ s t : State, step s = .next t → t.regs.cfgBase ≠ s.regs.cfgBase →
    (∃ base cw, s.pending.get .K = some cw ∧ decode cw = .ok (.setbase base) ∧ t.regs.cfgBase.toNat = base) ∨
    (∃ rest, s.script = .por :: rest) ∧ t.regs.cfgBase = 0

/-- 20 R56: no command changes a storage byte outside the bound window, and none but WRITE changes any. -/
def Obligations.BlockWritesOnlyInsideTheWindow : Prop :=
  ∀ (s t : State) (i : Instr), s.Inv → exec i s = .next t →
    (∀ a, ¬ (s.regs.lifecycle = .bound ∧ s.regs.base.toNat ≤ a ∧ a < s.regs.base.toNat + s.regs.cap.toNat) →
      Memory.byteAt t.storage a = Memory.byteAt s.storage a) ∧
    ((∀ d, i ≠ .write d) → t.storage = s.storage)

/-- 20 R55: H may read and write any byte outside the bound window, and any byte while not BOUND; a host access to the window while
BOUND is a fault of the run; DEINIT leaves the storage bytes as they are. -/
def Obligations.HostMayTouchStorageOutsideTheWindow : Prop :=
  ∀ (s : State) (a : Nat) (v : Byte) (rest : List Move), a < 2 ^ s.cfg.addrW →
    (¬ (s.regs.lifecycle = .bound ∧ s.regs.base.toNat ≤ a ∧ a < s.regs.base.toNat + s.regs.cap.toNat) →
      (s.script = .hostRead a :: rest →
        step s = .next { s with script := rest, hostReads := (a, Memory.byteAt s.storage a) :: s.hostReads }) ∧
      (s.script = .hostWrite a v :: rest →
        ∃ t, step s = .next t ∧ Memory.byteAt t.storage a = v ∧
          (∀ b, b ≠ a → Memory.byteAt t.storage b = Memory.byteAt s.storage b) ∧
          t = { s with script := rest, storage := t.storage })) ∧
    (s.regs.lifecycle = .bound → s.regs.base.toNat ≤ a → a < s.regs.base.toNat + s.regs.cap.toNat →
      (s.script = .hostRead a :: rest → step s = .fault .hostTouchedBoundWindow) ∧
      (s.script = .hostWrite a v :: rest → step s = .fault .hostTouchedBoundWindow)) ∧
    (∀ t, exec .deinit s = .next t → t.storage = s.storage)

/-- 10 R41: the four status outputs as functions of the registers; sampling them changes no register and no storage byte. -/
def Obligations.StatusOutputsFollowTheRegisters : Prop :=
  ∀ s : State,
    (s.regs.outputs.boundO = true ↔ s.regs.lifecycle = .bound) ∧
    (s.regs.outputs.faultO = true ↔ s.regs.lifecycle = .faulted) ∧
    (s.regs.outputs.emptyO = true ↔ s.regs.lifecycle = .bound ∧ s.regs.isEmpty = true) ∧
    (s.regs.outputs.fullO = true ↔ s.regs.lifecycle = .bound ∧ s.regs.isFull = true) ∧
    (∀ rest, s.script = .sample :: rest →
      step s = .next { s with script := rest, samples := s.regs.outputs :: s.samples })

/-- 70 R175: POR, taken before any command, sets every register to its POR value, discards every pending command without a response,
leaves storage unchanged, and lowers every status output. -/
def Obligations.PorResetsTheBlock : Prop :=
  ∀ (s : State) (rest : List Move), s.script = .por :: rest →
    ∃ t, step s = .next t ∧ t.regs = Regs.por ∧ (∀ p, t.pending.get p = none) ∧ t.allResponses = s.allResponses ∧
      t.storage = s.storage ∧ t.script = rest ∧
      t.regs.outputs = { boundO := false, faultO := false, emptyO := false, fullO := false }

/-- 10 R45: the state after POR of a machine of any configuration. Storage has no byte named: each reads as its free draw. -/
def Obligations.ResetStateHasPorValues : Prop :=
  ∀ c : Config,
    (State.resetWith c).regs =
      { lifecycle := .unbound, cfgBase := 0, base := 0, cap := 0, pol := .reject, mode := .mask,
        ridx := 0, widx := 0, fullf := false } ∧
    (∀ p, (State.resetWith c).pending.get p = none) ∧
    (State.resetWith c).regs.outputs = { boundO := false, faultO := false, emptyO := false, fullO := false } ∧
    (∀ a, Memory.byteAt (State.resetWith c).storage a = Config.porByte a)

/-- 70 R188, 93 I17: the state after POR, of every configuration the parameters allow, is a launch state; and a POR step starts a
new run at a launch state, not marked faulted, with the record of the run it ended kept. `State.reset` is the state of the
reference configuration of 00 R11 (the model's choice, log entry 1); that a launch state has nothing pending and nothing
observed (log entry 24) and the form of the record (log entry 25) are the model's choice too. -/
def Obligations.ResetStateIsALaunchState : Prop :=
  (∀ c : Config, c.Valid → (State.resetWith c).Launch) ∧
  State.reset = State.resetWith { capMax := 4096, addrW := 16 } ∧ State.reset.Launch ∧
  (∀ (s t : State) (rest : List Move), s.Inv → s.script = .por :: rest → step s = .next t →
    t.Launch ∧ t.runFaulted = false ∧
    ∃ r, t.earlier = r :: s.earlier ∧ r.responses = s.responses ∧ r.regs = s.regs ∧ r.storage = s.storage ∧
      r.discarded = s.pending ∧ r.hostReads = s.hostReads ∧ r.samples = s.samples ∧ r.runFaulted = s.runFaulted)

/-- 10 R37 to R40, R25, 20 R50: every step of every agent keeps the invariants: the registers' rules in each lifecycle state, their
widths, and storage in canonical form inside its address space; and no step but POR closes a run's record (log entry 25). -/
def Obligations.StepKeepsTheInvariants : Prop :=
  ∀ s t : State, s.Inv → step s = .next t →
    t.Inv ∧ t.cfg = s.cfg ∧ ((∀ rest, s.script ≠ .por :: rest) → t.earlier = s.earlier)

/-! ## Views that stay valid (70) -/

/-- 70 R179: P's view. If the size is below `usable()`, then whatever commands are serialised, with no DEINIT among them and fewer
WRITEs of P than the free slots seen, P's next WRITE is answered OK; under OVERWRITE it is in any case. -/
def Obligations.ProducerViewStaysValid : Prop :=
  ∀ (s t : State) (cmds : List (Port × Instr)) (d : Nat), s.Inv → s.regs.lifecycle = .bound →
    (∀ c ∈ cmds, c.2 ≠ .deinit) → s.regs.pol = .overwrite ∨ s.regs.size + writeCount cmds < s.regs.usable →
    performAll cmds s = .next t →
    ∃ u, performAt .P (.write d) t = .next u ∧
      u.responses = { port := .P, word := responseWord .ok 0 } :: t.responses

/-- 70 R180: C's view. If unread bytes are seen, then whatever commands are serialised, with no RESET and no DEINIT among them and
fewer READs of C than the bytes seen, C's next READ is answered OK. -/
def Obligations.ConsumerViewStaysValid : Prop :=
  ∀ (s t : State) (cmds : List (Port × Instr)), s.Inv → s.regs.lifecycle = .bound →
    (∀ c ∈ cmds, c.2 ≠ .deinit ∧ c.2 ≠ .reset) → readCount cmds < s.regs.size →
    performAll cmds s = .next t →
    ∃ u v, performAt .C .read t = .next u ∧
      u.responses = { port := .C, word := responseWord .ok v } :: t.responses
end

