-- ==== Sys2Proof/Laws/Memory.lean ====
section
/-! SUPPORT. The laws of memory: a byte read after a write, the bytes a write leaves alone, and the canonical form. -/
namespace Sys2Proof.Machine

theorem get?_put_same (m : Memory) (a : Nat) (v : Byte) : Memory.get? (Memory.put m a v) a = some v := by
  induction m with
  | nil => simp [Memory.put, Memory.get?]
  | cons x m ih =>
    obtain ⟨b, w⟩ := x
    simp only [Memory.put]
    split
    · simp [Memory.get?]
    · split
      · simp [Memory.get?]
      · simp [Memory.get?, *]

theorem get?_put_other (m : Memory) (a b : Nat) (v : Byte) (h : b ≠ a) :
    Memory.get? (Memory.put m a v) b = Memory.get? m b := by
  induction m with
  | nil => simp [Memory.put, Memory.get?, h]
  | cons x m ih =>
    obtain ⟨c, w⟩ := x
    simp only [Memory.put]
    split
    · simp [Memory.get?, h]
    · split
      · subst_vars; simp [Memory.get?, h]
      · simp [Memory.get?, ih]

/-- The byte just written is read. -/
@[simp] theorem byteAt_put_same (m : Memory) (a : Nat) (v : Byte) : Memory.byteAt (Memory.put m a v) a = v := by
  simp [Memory.byteAt, get?_put_same]

/-- A write leaves every other byte alone. -/
theorem byteAt_put_other (m : Memory) (a b : Nat) (v : Byte) (h : b ≠ a) :
    Memory.byteAt (Memory.put m a v) b = Memory.byteAt m b := by
  simp [Memory.byteAt, get?_put_other m a b v h]

/-- A cell of a written memory is the written one or was there before. -/
theorem mem_put (m : Memory) (a : Nat) (v : Byte) (x : Host.Cell) (h : x ∈ Memory.put m a v) : x = (a, v) ∨ x ∈ m := by
  induction m with
  | nil => simpa [Memory.put] using h
  | cons y m ih =>
    obtain ⟨b, w⟩ := y
    simp only [Memory.put] at h
    split at h
    · simpa using h
    · split at h
      · rcases List.mem_cons.1 h with h | h
        · exact .inl h
        · exact .inr (List.mem_cons_of_mem _ h)
      · rcases List.mem_cons.1 h with h | h
        · exact .inr (h ▸ List.mem_cons_self)
        · exact (ih h).imp_right (List.mem_cons_of_mem _)

/-- Every memory operation keeps the canonical form: the empty memory has it, and a write keeps it. -/
theorem wf_nil : Memory.wf [] := List.Pairwise.nil

theorem wf_put (m : Memory) (a : Nat) (v : Byte) (h : Memory.wf m) : Memory.wf (Memory.put m a v) := by
  induction m with
  | nil => simp [Memory.put, Memory.wf]
  | cons x m ih =>
    obtain ⟨b, w⟩ := x
    obtain ⟨hb, hm⟩ := List.pairwise_cons.1 h
    simp only [Memory.put]
    split
    · rename_i hab
      refine List.pairwise_cons.2 ⟨fun y hy => ?_, h⟩
      rcases List.mem_cons.1 hy with rfl | hy
      · exact hab
      · exact lt_trans hab (hb y hy)
    · split
      · rename_i hab
        exact List.pairwise_cons.2 ⟨fun y hy => by simpa [hab] using hb y hy, hm⟩
      · refine List.pairwise_cons.2 ⟨fun y hy => ?_, ih hm⟩
        rcases mem_put m a v y hy with rfl | hy
        · simp only; omega
        · exact hb y hy

end Sys2Proof.Machine
end

