-- ==== Sys2Proof/Laws/State.lean ====
section
/-! SUPPORT. One lemma per field per update of the state and of the registers, true by rfl, so that no proof unfolds a
record update; and the slots' own laws. -/
namespace Sys2Proof.Machine

/-! ### State.respond -/

@[simp] theorem respond_cfg (s : State) (st : Status) (v : Reg) : (s.respond st v).cfg = s.cfg := rfl
@[simp] theorem respond_regs (s : State) (st : Status) (v : Reg) : (s.respond st v).regs = s.regs := rfl
@[simp] theorem respond_pending (s : State) (st : Status) (v : Reg) : (s.respond st v).pending = s.pending := rfl
@[simp] theorem respond_storage (s : State) (st : Status) (v : Reg) : (s.respond st v).storage = s.storage := rfl
@[simp] theorem respond_script (s : State) (st : Status) (v : Reg) : (s.respond st v).script = s.script := rfl
@[simp] theorem respond_issuer (s : State) (st : Status) (v : Reg) : (s.respond st v).issuer = s.issuer := rfl
@[simp] theorem respond_responses (s : State) (st : Status) (v : Reg) : (s.respond st v).responses = { port := s.issuer, word := responseWord st v } :: s.responses := rfl
@[simp] theorem respond_hostReads (s : State) (st : Status) (v : Reg) : (s.respond st v).hostReads = s.hostReads := rfl
@[simp] theorem respond_samples (s : State) (st : Status) (v : Reg) : (s.respond st v).samples = s.samples := rfl
@[simp] theorem respond_earlier (s : State) (st : Status) (v : Reg) : (s.respond st v).earlier = s.earlier := rfl
@[simp] theorem respond_turn (s : State) (st : Status) (v : Reg) : (s.respond st v).turn = s.turn := rfl

/-! ### State.withRegs -/

@[simp] theorem withRegs_cfg (s : State) (r : Regs) : (s.withRegs r).cfg = s.cfg := rfl
@[simp] theorem withRegs_regs (s : State) (r : Regs) : (s.withRegs r).regs = r := rfl
@[simp] theorem withRegs_pending (s : State) (r : Regs) : (s.withRegs r).pending = s.pending := rfl
@[simp] theorem withRegs_storage (s : State) (r : Regs) : (s.withRegs r).storage = s.storage := rfl
@[simp] theorem withRegs_script (s : State) (r : Regs) : (s.withRegs r).script = s.script := rfl
@[simp] theorem withRegs_issuer (s : State) (r : Regs) : (s.withRegs r).issuer = s.issuer := rfl
@[simp] theorem withRegs_responses (s : State) (r : Regs) : (s.withRegs r).responses = s.responses := rfl
@[simp] theorem withRegs_hostReads (s : State) (r : Regs) : (s.withRegs r).hostReads = s.hostReads := rfl
@[simp] theorem withRegs_samples (s : State) (r : Regs) : (s.withRegs r).samples = s.samples := rfl
@[simp] theorem withRegs_earlier (s : State) (r : Regs) : (s.withRegs r).earlier = s.earlier := rfl
@[simp] theorem withRegs_turn (s : State) (r : Regs) : (s.withRegs r).turn = s.turn := rfl

/-! ### State.putByte -/

@[simp] theorem putByte_cfg (s : State) (a : Nat) (v : Byte) : (s.putByte a v).cfg = s.cfg := rfl
@[simp] theorem putByte_regs (s : State) (a : Nat) (v : Byte) : (s.putByte a v).regs = s.regs := rfl
@[simp] theorem putByte_pending (s : State) (a : Nat) (v : Byte) : (s.putByte a v).pending = s.pending := rfl
@[simp] theorem putByte_storage (s : State) (a : Nat) (v : Byte) : (s.putByte a v).storage = Memory.put s.storage a v := rfl
@[simp] theorem putByte_script (s : State) (a : Nat) (v : Byte) : (s.putByte a v).script = s.script := rfl
@[simp] theorem putByte_issuer (s : State) (a : Nat) (v : Byte) : (s.putByte a v).issuer = s.issuer := rfl
@[simp] theorem putByte_responses (s : State) (a : Nat) (v : Byte) : (s.putByte a v).responses = s.responses := rfl
@[simp] theorem putByte_hostReads (s : State) (a : Nat) (v : Byte) : (s.putByte a v).hostReads = s.hostReads := rfl
@[simp] theorem putByte_samples (s : State) (a : Nat) (v : Byte) : (s.putByte a v).samples = s.samples := rfl
@[simp] theorem putByte_earlier (s : State) (a : Nat) (v : Byte) : (s.putByte a v).earlier = s.earlier := rfl
@[simp] theorem putByte_turn (s : State) (a : Nat) (v : Byte) : (s.putByte a v).turn = s.turn := rfl

/-! ### State.enterFault -/

@[simp] theorem enterFault_cfg (s : State) : (s.enterFault).cfg = s.cfg := rfl
@[simp] theorem enterFault_regs (s : State) : (s.enterFault).regs = { s.regs with lifecycle := .faulted } := rfl
@[simp] theorem enterFault_pending (s : State) : (s.enterFault).pending = s.pending := rfl
@[simp] theorem enterFault_storage (s : State) : (s.enterFault).storage = s.storage := rfl
@[simp] theorem enterFault_script (s : State) : (s.enterFault).script = s.script := rfl
@[simp] theorem enterFault_issuer (s : State) : (s.enterFault).issuer = s.issuer := rfl
@[simp] theorem enterFault_responses (s : State) : (s.enterFault).responses = s.responses := rfl
@[simp] theorem enterFault_hostReads (s : State) : (s.enterFault).hostReads = s.hostReads := rfl
@[simp] theorem enterFault_samples (s : State) : (s.enterFault).samples = s.samples := rfl
@[simp] theorem enterFault_earlier (s : State) : (s.enterFault).earlier = s.earlier := rfl
@[simp] theorem enterFault_turn (s : State) : (s.enterFault).turn = s.turn := rfl

/-! ### State.powerOn -/

@[simp] theorem powerOn_cfg (s : State) : (s.powerOn).cfg = s.cfg := rfl
@[simp] theorem powerOn_regs (s : State) : (s.powerOn).regs = Regs.por := rfl
@[simp] theorem powerOn_pending (s : State) : (s.powerOn).pending = Slots.none := rfl
@[simp] theorem powerOn_storage (s : State) : (s.powerOn).storage = s.storage := rfl
@[simp] theorem powerOn_script (s : State) : (s.powerOn).script = s.script := rfl
@[simp] theorem powerOn_issuer (s : State) : (s.powerOn).issuer = s.issuer := rfl
@[simp] theorem powerOn_responses (s : State) : (s.powerOn).responses = [] := rfl
@[simp] theorem powerOn_hostReads (s : State) : (s.powerOn).hostReads = [] := rfl
@[simp] theorem powerOn_samples (s : State) : (s.powerOn).samples = [] := rfl
@[simp] theorem powerOn_earlier (s : State) : (s.powerOn).earlier = s.record :: s.earlier := rfl
@[simp] theorem powerOn_turn (s : State) : (s.powerOn).turn = s.turn := rfl

/-! ### State.take -/

@[simp] theorem take_cfg (s : State) (p : Port) (rest : List Move) : (s.take p rest).cfg = s.cfg := rfl
@[simp] theorem take_regs (s : State) (p : Port) (rest : List Move) : (s.take p rest).regs = s.regs := rfl
@[simp] theorem take_pending (s : State) (p : Port) (rest : List Move) : (s.take p rest).pending = s.pending.set p none := rfl
@[simp] theorem take_storage (s : State) (p : Port) (rest : List Move) : (s.take p rest).storage = s.storage := rfl
@[simp] theorem take_script (s : State) (p : Port) (rest : List Move) : (s.take p rest).script = rest := rfl
@[simp] theorem take_issuer (s : State) (p : Port) (rest : List Move) : (s.take p rest).issuer = p := rfl
@[simp] theorem take_responses (s : State) (p : Port) (rest : List Move) : (s.take p rest).responses = s.responses := rfl
@[simp] theorem take_hostReads (s : State) (p : Port) (rest : List Move) : (s.take p rest).hostReads = s.hostReads := rfl
@[simp] theorem take_samples (s : State) (p : Port) (rest : List Move) : (s.take p rest).samples = s.samples := rfl
@[simp] theorem take_earlier (s : State) (p : Port) (rest : List Move) : (s.take p rest).earlier = s.earlier := rfl
@[simp] theorem take_turn (s : State) (p : Port) (rest : List Move) : (s.take p rest).turn = s.turn := rfl

/-! ### Regs.setWidx -/

@[simp] theorem setWidx_lifecycle (r : Regs) (c : Config) (n : Nat) : (r.setWidx c n).lifecycle = r.lifecycle := rfl
@[simp] theorem setWidx_cfgBase (r : Regs) (c : Config) (n : Nat) : (r.setWidx c n).cfgBase = r.cfgBase := rfl
@[simp] theorem setWidx_base (r : Regs) (c : Config) (n : Nat) : (r.setWidx c n).base = r.base := rfl
@[simp] theorem setWidx_cap (r : Regs) (c : Config) (n : Nat) : (r.setWidx c n).cap = r.cap := rfl
@[simp] theorem setWidx_pol (r : Regs) (c : Config) (n : Nat) : (r.setWidx c n).pol = r.pol := rfl
@[simp] theorem setWidx_mode (r : Regs) (c : Config) (n : Nat) : (r.setWidx c n).mode = r.mode := rfl
@[simp] theorem setWidx_ridx (r : Regs) (c : Config) (n : Nat) : (r.setWidx c n).ridx = r.ridx := rfl
@[simp] theorem setWidx_widx (r : Regs) (c : Config) (n : Nat) : (r.setWidx c n).widx = narrow c.idxW n := rfl
@[simp] theorem setWidx_fullf (r : Regs) (c : Config) (n : Nat) : (r.setWidx c n).fullf = r.fullf := rfl

/-! ### Regs.setRidx -/

@[simp] theorem setRidx_lifecycle (r : Regs) (c : Config) (n : Nat) : (r.setRidx c n).lifecycle = r.lifecycle := rfl
@[simp] theorem setRidx_cfgBase (r : Regs) (c : Config) (n : Nat) : (r.setRidx c n).cfgBase = r.cfgBase := rfl
@[simp] theorem setRidx_base (r : Regs) (c : Config) (n : Nat) : (r.setRidx c n).base = r.base := rfl
@[simp] theorem setRidx_cap (r : Regs) (c : Config) (n : Nat) : (r.setRidx c n).cap = r.cap := rfl
@[simp] theorem setRidx_pol (r : Regs) (c : Config) (n : Nat) : (r.setRidx c n).pol = r.pol := rfl
@[simp] theorem setRidx_mode (r : Regs) (c : Config) (n : Nat) : (r.setRidx c n).mode = r.mode := rfl
@[simp] theorem setRidx_ridx (r : Regs) (c : Config) (n : Nat) : (r.setRidx c n).ridx = narrow c.idxW n := rfl
@[simp] theorem setRidx_widx (r : Regs) (c : Config) (n : Nat) : (r.setRidx c n).widx = r.widx := rfl
@[simp] theorem setRidx_fullf (r : Regs) (c : Config) (n : Nat) : (r.setRidx c n).fullf = r.fullf := rfl

/-! ### Regs.afterRead -/

@[simp] theorem afterRead_lifecycle (r : Regs) (c : Config) : (r.afterRead c).lifecycle = r.lifecycle := rfl
@[simp] theorem afterRead_cfgBase (r : Regs) (c : Config) : (r.afterRead c).cfgBase = r.cfgBase := rfl
@[simp] theorem afterRead_base (r : Regs) (c : Config) : (r.afterRead c).base = r.base := rfl
@[simp] theorem afterRead_cap (r : Regs) (c : Config) : (r.afterRead c).cap = r.cap := rfl
@[simp] theorem afterRead_pol (r : Regs) (c : Config) : (r.afterRead c).pol = r.pol := rfl
@[simp] theorem afterRead_mode (r : Regs) (c : Config) : (r.afterRead c).mode = r.mode := rfl
@[simp] theorem afterRead_ridx (r : Regs) (c : Config) : (r.afterRead c).ridx = narrow c.idxW (r.next r.ridx.toNat) := rfl
@[simp] theorem afterRead_widx (r : Regs) (c : Config) : (r.afterRead c).widx = r.widx := rfl
@[simp] theorem afterRead_fullf (r : Regs) (c : Config) : (r.afterRead c).fullf = false := rfl

/-! ### Regs.emptied -/

@[simp] theorem emptied_lifecycle (r : Regs) : (r.emptied).lifecycle = r.lifecycle := rfl
@[simp] theorem emptied_cfgBase (r : Regs) : (r.emptied).cfgBase = r.cfgBase := rfl
@[simp] theorem emptied_base (r : Regs) : (r.emptied).base = r.base := rfl
@[simp] theorem emptied_cap (r : Regs) : (r.emptied).cap = r.cap := rfl
@[simp] theorem emptied_pol (r : Regs) : (r.emptied).pol = r.pol := rfl
@[simp] theorem emptied_mode (r : Regs) : (r.emptied).mode = r.mode := rfl
@[simp] theorem emptied_ridx (r : Regs) : (r.emptied).ridx = 0 := rfl
@[simp] theorem emptied_widx (r : Regs) : (r.emptied).widx = 0 := rfl
@[simp] theorem emptied_fullf (r : Regs) : (r.emptied).fullf = false := rfl

/-! ### Regs.released -/

@[simp] theorem released_lifecycle (r : Regs) : (r.released).lifecycle = .unbound := rfl
@[simp] theorem released_cfgBase (r : Regs) : (r.released).cfgBase = r.cfgBase := rfl
@[simp] theorem released_base (r : Regs) : (r.released).base = 0 := rfl
@[simp] theorem released_cap (r : Regs) : (r.released).cap = 0 := rfl
@[simp] theorem released_pol (r : Regs) : (r.released).pol = .reject := rfl
@[simp] theorem released_mode (r : Regs) : (r.released).mode = .mask := rfl
@[simp] theorem released_ridx (r : Regs) : (r.released).ridx = 0 := rfl
@[simp] theorem released_widx (r : Regs) : (r.released).widx = 0 := rfl
@[simp] theorem released_fullf (r : Regs) : (r.released).fullf = false := rfl

/-! ### Regs.boundTo -/

@[simp] theorem boundTo_lifecycle (r : Regs) (c : Config) (pol : Policy) (mode : IndexMode) (cap : Nat) : (r.boundTo c pol mode cap).lifecycle = .bound := rfl
@[simp] theorem boundTo_cfgBase (r : Regs) (c : Config) (pol : Policy) (mode : IndexMode) (cap : Nat) : (r.boundTo c pol mode cap).cfgBase = r.cfgBase := rfl
@[simp] theorem boundTo_base (r : Regs) (c : Config) (pol : Policy) (mode : IndexMode) (cap : Nat) : (r.boundTo c pol mode cap).base = narrow c.addrW r.cfgBase.toNat := rfl
@[simp] theorem boundTo_cap (r : Regs) (c : Config) (pol : Policy) (mode : IndexMode) (cap : Nat) : (r.boundTo c pol mode cap).cap = BitVec.ofNat 24 cap := rfl
@[simp] theorem boundTo_pol (r : Regs) (c : Config) (pol : Policy) (mode : IndexMode) (cap : Nat) : (r.boundTo c pol mode cap).pol = pol := rfl
@[simp] theorem boundTo_mode (r : Regs) (c : Config) (pol : Policy) (mode : IndexMode) (cap : Nat) : (r.boundTo c pol mode cap).mode = mode := rfl
@[simp] theorem boundTo_ridx (r : Regs) (c : Config) (pol : Policy) (mode : IndexMode) (cap : Nat) : (r.boundTo c pol mode cap).ridx = 0 := rfl
@[simp] theorem boundTo_widx (r : Regs) (c : Config) (pol : Policy) (mode : IndexMode) (cap : Nat) : (r.boundTo c pol mode cap).widx = 0 := rfl
@[simp] theorem boundTo_fullf (r : Regs) (c : Config) (pol : Policy) (mode : IndexMode) (cap : Nat) : (r.boundTo c pol mode cap).fullf = false := rfl

/-! ### Regs.por -/

@[simp] theorem por_lifecycle : Regs.por.lifecycle = .unbound := rfl
@[simp] theorem por_cfgBase : Regs.por.cfgBase = 0 := rfl
@[simp] theorem por_base : Regs.por.base = 0 := rfl
@[simp] theorem por_cap : Regs.por.cap = 0 := rfl
@[simp] theorem por_pol : Regs.por.pol = .reject := rfl
@[simp] theorem por_mode : Regs.por.mode = .mask := rfl
@[simp] theorem por_ridx : Regs.por.ridx = 0 := rfl
@[simp] theorem por_widx : Regs.por.widx = 0 := rfl
@[simp] theorem por_fullf : Regs.por.fullf = false := rfl

/-! ### The register effect of a stored byte -/

/-- Under REJECT only WIDX changes (42 R125). -/
theorem afterWrite_reject (c : Config) (r : Regs) (h : r.pol = .reject) :
    r.afterWrite c = r.setWidx c (r.next r.widx.toNat) := by
  simp [Regs.afterWrite, h]

/-- Under OVERWRITE on a buffer that is not full, WIDX and FULLF change (42 R125). -/
theorem afterWrite_overwrite_free (c : Config) (r : Regs) (h : r.pol = .overwrite) (hf : r.fullf = false) :
    r.afterWrite c =
      { r.setWidx c (r.next r.widx.toNat) with
        fullf := (narrow c.idxW (r.next r.widx.toNat)).toNat == r.ridx.toNat } := by
  simp [Regs.afterWrite, h, hf, Regs.fullfAfterWrite]

/-- Under OVERWRITE on a full buffer, RIDX advances too (42 R125). -/
theorem afterWrite_overwrite_full (c : Config) (r : Regs) (h : r.pol = .overwrite) (hf : r.fullf = true) :
    r.afterWrite c =
      { (r.setWidx c (r.next r.widx.toNat)).setRidx c (r.next r.ridx.toNat) with
        fullf := (narrow c.idxW (r.next r.widx.toNat)).toNat == (narrow c.idxW (r.next r.ridx.toNat)).toNat } := by
  simp [Regs.afterWrite, h, hf, Regs.fullfAfterWrite, Regs.next]

@[simp] theorem afterWrite_lifecycle (c : Config) (r : Regs) : (r.afterWrite c).lifecycle = r.lifecycle := by
  obtain ⟨_, _, _, _, p, _, _, _, f⟩ := r; cases p <;> cases f <;> rfl
@[simp] theorem afterWrite_cfgBase (c : Config) (r : Regs) : (r.afterWrite c).cfgBase = r.cfgBase := by
  obtain ⟨_, _, _, _, p, _, _, _, f⟩ := r; cases p <;> cases f <;> rfl
@[simp] theorem afterWrite_base (c : Config) (r : Regs) : (r.afterWrite c).base = r.base := by
  obtain ⟨_, _, _, _, p, _, _, _, f⟩ := r; cases p <;> cases f <;> rfl
@[simp] theorem afterWrite_cap (c : Config) (r : Regs) : (r.afterWrite c).cap = r.cap := by
  obtain ⟨_, _, _, _, p, _, _, _, f⟩ := r; cases p <;> cases f <;> rfl
@[simp] theorem afterWrite_pol (c : Config) (r : Regs) : (r.afterWrite c).pol = r.pol := by
  obtain ⟨_, _, _, _, p, _, _, _, f⟩ := r; cases p <;> cases f <;> rfl
@[simp] theorem afterWrite_mode (c : Config) (r : Regs) : (r.afterWrite c).mode = r.mode := by
  obtain ⟨_, _, _, _, p, _, _, _, f⟩ := r; cases p <;> cases f <;> rfl

/-! ### The slots -/

@[simp] theorem none_get (p : Port) : Slots.none.get p = none := by cases p <;> rfl

@[simp] theorem set_get (sl : Slots) (p : Port) (o : Option Word) : (sl.set p o).get p = o := by cases p <;> rfl

@[simp] theorem set_get_ne (sl : Slots) (p q : Port) (o : Option Word) (h : q ≠ p) : (sl.set p o).get q = sl.get q := by
  cases p <;> cases q <;> first | rfl | exact absurd rfl h

/-- Slots that agree at every port are the same. -/
theorem slots_ext (sl sl' : Slots) (h : ∀ p, sl.get p = sl'.get p) : sl = sl' := by
  cases sl; cases sl'
  have hk := h .K; have hp := h .P; have hc := h .C
  simp only [Slots.get] at hk hp hc
  subst hk hp hc; rfl

end Sys2Proof.Machine
end

