-- ==== Sys2Proof/Laws/Ops.lean ====
section
/-! SUPPORT. What each shared operation answers, said once: the checks a command begins with, one storage access, the
answers; and the shape of everything a command can do. -/
namespace Sys2Proof.Machine

@[simp] theorem answer_eq (st : Status) (v : Reg) (s : State) : answer st v s = .next (s.respond st v) := rfl

@[simp] theorem answerIllegal_eq (s : State) : answerIllegal s = .next (s.respond .illegalCommand 0) := rfl

theorem whenLegal_legal {i : Instr} {s : State} (k) (h : i.legalAt s.issuer = true) : whenLegal i s k = k := by
  simp [whenLegal, h]

theorem whenLegal_illegal {i : Instr} {s : State} (k) (h : i.legalAt s.issuer = false) :
    whenLegal i s k = .next (s.respond .illegalCommand 0) := by
  simp [whenLegal, h]

theorem unlessFaulted_faulted {s : State} (k) (h : s.regs.lifecycle = .faulted) :
    unlessFaulted s k = .next (s.respond .faulted 0) := by
  simp [unlessFaulted, h]

theorem unlessFaulted_other {s : State} (k) (h : s.regs.lifecycle ≠ .faulted) : unlessFaulted s k = k := by
  cases hl : s.regs.lifecycle <;> simp_all [unlessFaulted]

theorem whenBound_bound {s : State} (k) (h : s.regs.lifecycle = .bound) : whenBound s k = k := by
  simp [whenBound, h]

theorem whenBound_unbound {s : State} (k) (h : s.regs.lifecycle = .unbound) :
    whenBound s k = .next (s.respond .notBound 0) := by
  simp [whenBound, h]

theorem whenBound_faulted {s : State} (k) (h : s.regs.lifecycle = .faulted) :
    whenBound s k = .next (s.respond .faulted 0) := by
  simp [whenBound, h]

theorem memRead_inside {a : Nat} {s : State} (k) (h : a < 2 ^ s.cfg.addrW) :
    memRead a s k = k (Memory.byteAt s.storage a) := by
  simp [memRead, State.hasAddress, h]

theorem memRead_outside {a : Nat} {s : State} (k) (h : ¬ a < 2 ^ s.cfg.addrW) :
    memRead a s k = .fault .blockAddressOutsideStorage := by
  simp [memRead, State.hasAddress] at *; omega

theorem memWrite_inside {a : Nat} {v : Byte} {s : State} (k) (h : a < 2 ^ s.cfg.addrW) :
    memWrite a v s k = k (s.putByte a v) := by
  simp [memWrite, State.hasAddress, h]

theorem memWrite_outside {a : Nat} {v : Byte} {s : State} (k) (h : ¬ a < 2 ^ s.cfg.addrW) :
    memWrite a v s k = .fault .blockAddressOutsideStorage := by
  simp [memWrite, State.hasAddress] at *; omega

/-- Everything a command can do: fault on a storage address that does not exist, or end in one response after writing
registers and, for a WRITE, the one byte at its address. -/
theorem exec_shape (i : Instr) (s : State) :
    exec i s = .fault .blockAddressOutsideStorage ∨
    ∃ st v r m, exec i s = .next (State.respond st v { s with regs := r, storage := m }) ∧
      (m = s.storage ∨ ∃ d, i = .write d ∧ m = Memory.put s.storage s.regs.writeAddr (BitVec.ofNat 8 d)) := by
  have same : ∀ {o : Host.Outcome State Fault Refusal} (st v r), o = .next (State.respond st v (s.withRegs r)) →
      ∃ st v r m, o = .next (State.respond st v { s with regs := r, storage := m }) ∧
        (m = s.storage ∨ ∃ d, i = .write d ∧ m = Memory.put s.storage s.regs.writeAddr (BitVec.ofNat 8 d)) :=
    fun st v r h => ⟨st, v, r, s.storage, h, .inl rfl⟩
  have kept : ∀ {o : Host.Outcome State Fault Refusal} (st v), o = .next (State.respond st v s) →
      ∃ st v r m, o = .next (State.respond st v { s with regs := r, storage := m }) ∧
        (m = s.storage ∨ ∃ d, i = .write d ∧ m = Memory.put s.storage s.regs.writeAddr (BitVec.ofNat 8 d)) :=
    fun st v h => same st v s.regs h
  cases hleg : i.legalAt s.issuer with
  | false =>
    refine .inr (kept .illegalCommand 0 ?_)
    cases i <;> exact whenLegal_illegal _ hleg
  | true =>
    cases i with
    | setbase base =>
      simp only [exec, execSetbase, whenLegal_legal _ hleg, unlessFaulted]
      split
      · exact .inr (kept _ _ rfl)
      all_goals exact .inr (same _ _ _ rfl)
    | init pol mode cap =>
      simp only [exec, execInit, whenLegal_legal _ hleg]
      split
      · exact .inr (kept _ _ rfl)
      · exact .inr (kept _ _ rfl)
      · split
        · exact .inr (same _ _ _ rfl)
        · split
          · exact .inr (same _ _ _ rfl)
          · exact .inr (same _ _ _ rfl)
    | deinit =>
      simp only [exec, execDeinit, whenLegal_legal _ hleg]
      split
      · exact .inr (kept _ _ rfl)
      · exact .inr (kept _ _ rfl)
      · exact .inr (same _ _ _ rfl)
    | write d =>
      simp only [exec, execWrite, whenLegal_legal _ hleg, whenBound]
      have stored : ∀ k, (∀ t, k t = answer .ok 0 (t.withRegs (t.regs.afterWrite t.cfg))) →
          memWrite s.regs.writeAddr (BitVec.ofNat 8 d) s k = .fault .blockAddressOutsideStorage ∨
          ∃ st v r m, memWrite s.regs.writeAddr (BitVec.ofNat 8 d) s k =
              .next (State.respond st v { s with regs := r, storage := m }) ∧
            (m = s.storage ∨ ∃ e, Instr.write d = .write e ∧
              m = Memory.put s.storage s.regs.writeAddr (BitVec.ofNat 8 e)) := fun k hk => by
        by_cases ha : s.regs.writeAddr < 2 ^ s.cfg.addrW
        · rw [memWrite_inside _ ha, hk]
          exact .inr ⟨_, _, _, _, rfl, .inr ⟨d, rfl, rfl⟩⟩
        · exact .inl (memWrite_outside _ ha)
      split
      · exact .inr (kept _ _ rfl)
      · exact .inr (kept _ _ rfl)
      · split
        · split
          · exact .inr (kept _ _ rfl)
          · exact stored _ fun _ => rfl
        · exact stored _ fun _ => rfl
    | read =>
      simp only [exec, execRead, whenLegal_legal _ hleg, whenBound]
      split
      · exact .inr (kept _ _ rfl)
      · exact .inr (kept _ _ rfl)
      · split
        · exact .inr (kept _ _ rfl)
        · by_cases ha : s.regs.readAddr < 2 ^ s.cfg.addrW
          · rw [memRead_inside _ ha]
            exact .inr (same _ _ _ rfl)
          · exact .inl (memRead_outside _ ha)
    | reset =>
      simp only [exec, execReset, whenLegal_legal _ hleg, whenBound]
      split
      · exact .inr (kept _ _ rfl)
      · exact .inr (kept _ _ rfl)
      · exact .inr (same _ _ _ rfl)
    | isEmpty =>
      simp only [exec, execIsEmpty, whenLegal_legal _ hleg, whenBound]
      split <;> exact .inr (kept _ _ rfl)
    | isFull =>
      simp only [exec, execIsFull, whenLegal_legal _ hleg, whenBound]
      split <;> exact .inr (kept _ _ rfl)
    | size =>
      simp only [exec, execSize, whenLegal_legal _ hleg, whenBound]
      split <;> exact .inr (kept _ _ rfl)
    | capacity =>
      simp only [exec, execCapacity, whenLegal_legal _ hleg, whenBound]
      split <;> exact .inr (kept _ _ rfl)

end Sys2Proof.Machine
end

