-- ==== Sys2Proof/Laws/PerInstr.lean ====
section
/-! SUPPORT. The family SpellsOwnRow, one lemma per command: the encoded word of a well-formed command spells the command's own
row of the opcode map (30 R77, R84). -/
namespace Sys2Proof.Laws.SpellsOwnRow

/-- The encoded word of a command, where it is well-formed, has the fixed bits of the command's row. -/
def Statement (i : Instr) : Prop := i.WellFormed → i.row.spells (encode i) = true

/-- A number below `2 ^ w` has no bit at or above `w`. -/
theorem bit_above {n w : Nat} (h : n < 2 ^ w) (i : Nat) (hi : i < 32) (hw : w ≤ i) : (BitVec.ofNat 32 n)[i] = false := by
  have hz : n.testBit i = false :=
    Nat.testBit_lt_two_pow (lt_of_lt_of_le h (Nat.pow_le_pow_right (by decide) hw))
  rw [← BitVec.getLsbD_eq_getElem, BitVec.getLsbD_ofNat]
  simp [hz]

theorem setbase (base : Nat) : Statement (.setbase base) := by
  intro h
  have hb : base < 2 ^ 24 := by simpa [Instr.WellFormed, Instr.wellFormed] using h
  simp only [Instr.row, OpRow.spells, OpRow.setbase, encode, beq_iff_eq]
  ext i hi
  have hz := bit_above hb i hi
  interval_cases i <;> simp_all

theorem init (pol : Policy) (mode : IndexMode) (cap : Nat) : Statement (.init pol mode cap) := by
  intro h
  have hb : cap < 2 ^ 24 := by simpa [Instr.WellFormed, Instr.wellFormed] using h
  simp only [Instr.row, OpRow.spells, OpRow.init, encode, beq_iff_eq]
  ext i hi
  have hz := bit_above hb i hi
  cases pol <;> cases mode <;> interval_cases i <;> simp_all [Policy.bit, IndexMode.bit]

theorem deinit : Statement .deinit := fun _ => by decide

theorem reset : Statement .reset := fun _ => by decide

theorem write (data : Nat) : Statement (.write data) := by
  intro h
  have hb : data < 2 ^ 8 := by simpa [Instr.WellFormed, Instr.wellFormed] using h
  simp only [Instr.row, OpRow.spells, OpRow.write, encode, beq_iff_eq]
  ext i hi
  have hz := bit_above hb i hi
  interval_cases i <;> simp_all

theorem read : Statement .read := fun _ => by decide

theorem isEmpty : Statement .isEmpty := fun _ => by decide

theorem isFull : Statement .isFull := fun _ => by decide

theorem size : Statement .size := fun _ => by decide

theorem capacity : Statement .capacity := fun _ => by decide

end Sys2Proof.Laws.SpellsOwnRow
end

