-- ==== Sys2Proof/Laws/Response.lean ====
section
/-! SUPPORT. The three fields of a response word, and that the word determines status and value (30 R80, R82). -/
namespace Sys2Proof.Machine

/-- Bit `i` of the value field. -/
theorem responseWord_low (st : Status) (v : Reg) (i : Nat) (h : i < 24) :
    (responseWord st v).getLsbD i = v.getLsbD i := by
  have : (statusCode st ++ 0#4 ++ v : BitVec (4 + 4 + 24)).getLsbD i = v.getLsbD i := by
    rw [BitVec.getLsbD_append]; simp [h]
  exact this

/-- Bit `24 + i` of the word, above the value field. -/
theorem responseWord_high (st : Status) (v : Reg) (i : Nat) :
    (responseWord st v).getLsbD (24 + i) = (decide (4 ≤ i) && (statusCode st).getLsbD (i - 4)) := by
  have : (statusCode st ++ 0#4 ++ v : BitVec (4 + 4 + 24)).getLsbD (24 + i) =
      (decide (4 ≤ i) && (statusCode st).getLsbD (i - 4)) := by
    rw [BitVec.getLsbD_append, BitVec.getLsbD_append]
    by_cases h : i < 4
    · simp [h]
    · simp [h]; omega
  exact this

@[simp] theorem responseWord_status (st : Status) (v : Reg) : (responseWord st v).extractLsb' 28 4 = statusCode st := by
  apply BitVec.eq_of_getLsbD_eq
  intro i hi
  have h : 28 + i = 24 + (4 + i) := by omega
  rw [BitVec.getLsbD_extractLsb', h, responseWord_high]
  simp [hi]

@[simp] theorem responseWord_reserved (st : Status) (v : Reg) : (responseWord st v).extractLsb' 24 4 = 0#4 := by
  apply BitVec.eq_of_getLsbD_eq
  intro i hi
  rw [BitVec.getLsbD_extractLsb', responseWord_high]
  simp only [BitVec.getLsbD_zero, Bool.and_eq_false_iff, decide_eq_false_iff_not]
  omega

@[simp] theorem responseWord_value (st : Status) (v : Reg) : (responseWord st v).extractLsb' 0 24 = v := by
  apply BitVec.eq_of_getLsbD_eq
  intro i hi
  rw [BitVec.getLsbD_extractLsb', Nat.zero_add, responseWord_low st v i hi]
  simp [hi]

/-- Different statuses have different numbers. -/
theorem statusCode_injective {st st' : Status} (h : statusCode st = statusCode st') : st = st' := by
  cases st <;> cases st' <;> first | rfl | exact absurd h (by decide)

/-- A response word has one status and one value. -/
theorem responseWord_injective {st st' : Status} {v v' : Reg} (h : responseWord st v = responseWord st' v') :
    st = st' ∧ v = v' :=
  ⟨statusCode_injective (by simpa using congrArg (BitVec.extractLsb' 28 4) h),
   by simpa using congrArg (BitVec.extractLsb' 0 24) h⟩

end Sys2Proof.Machine
end

