-- ==== Sys2Proof/Laws/Run.lean ====
section
/-! SUPPORT. The end of a run (70 R187): once the present run is ended, every step of it keeps the observation's registers and
responses, and from a good final state no step faults. -/
namespace Sys2Proof.Machine

@[simp] theorem record_runFaulted (s : State) : s.record.runFaulted = s.runFaulted := rfl

@[simp] theorem record_responses (s : State) : s.record.responses = s.responses := rfl

/-- No response is lost, and none is given, at the boundary of two runs. -/
theorem powerOn_allResponses (s : State) : s.powerOn.allResponses = s.allResponses := rfl

/-- With nothing pending there is no port for ARB to take. -/
theorem arbitrate_none {s : State} (h : s.pending = Slots.none) : s.arbitrate = none := by
  simp [State.arbitrate, Slots.ports, h]

/-- With nothing pending, ARB's move is past and nothing else changes. -/
theorem serve_none {s : State} (port : Port) (rest : List Move) (h : s.pending = Slots.none) :
    serve port rest s = .next { s with script := rest } := by
  simp [serve, h]

/-- Every step of an ended run ends with it: it faults at a host access, or keeps the registers, the responses and the pending
commands. -/
theorem step_ended {s : State} (h : s.Ended) (hpor : ∀ rest, s.script ≠ .por :: rest) :
    (∃ f, step s = .fault f ∧ s.hostStopsRun s.script = true) ∨
    ∃ t, step s = .next t ∧ t.regs = s.regs ∧ t.responses = s.responses ∧ t.Ended := by
  obtain ⟨hp, hi⟩ := h
  have access : ∀ a k, (∃ f, hostAccess a s k = .fault f ∧ s.hostMayAccess a = false) ∨ hostAccess a s k = k := by
    intro a k
    cases ha : s.hasAddress a <;> cases hw : s.regs.inWindow a <;> simp [hostAccess, State.hostMayAccess, ha, hw]
  unfold step
  split
  · exact .inr ⟨s, by simp [serveAny, arbitrate_none hp], rfl, rfl, hp, hi⟩
  · simp_all [issuesAgain]
  · rename_i port rest hs
    exact .inr ⟨_, serve_none port rest hp, rfl, rfl, hp, by simpa [hs, issuesAgain] using hi⟩
  · rename_i a rest hs
    unfold hostRead
    rcases access a _ with ⟨f, hf, hm⟩ | hk
    · exact .inl ⟨f, hf, by simp [hs, State.hostStopsRun, hm]⟩
    · exact .inr ⟨_, hk, rfl, rfl, hp, by simpa [hs, issuesAgain] using hi⟩
  · rename_i a v rest hs
    unfold hostWrite
    rcases access a _ with ⟨f, hf, hm⟩ | hk
    · exact .inl ⟨f, hf, by simp [hs, State.hostStopsRun, hm]⟩
    · exact .inr ⟨_, hk, rfl, rfl, hp, by simpa [hs, issuesAgain] using hi⟩
  · rename_i rest hs
    exact .inr ⟨_, rfl, rfl, rfl, hp, by simpa [hs, issuesAgain] using hi⟩
  · rename_i rest hs
    exact absurd hs (hpor rest)

/-- From a good final state no step faults. -/
theorem step_goodFinal {s : State} (h : s.GoodFinal) (hpor : ∀ rest, s.script ≠ .por :: rest) :
    ∃ t, step s = .next t ∧ t.regs = s.regs ∧ t.responses = s.responses ∧ t.Ended := by
  rcases step_ended h.1 hpor with ⟨f, _, hs⟩ | hn
  · rw [h.2.2] at hs
    cases hs
  · exact hn

end Sys2Proof.Machine
end

