-- ==== Sys2Proof/Tests/Slice0.lean ====
section
/-! SUPPORT. The model's own tests: the well-formedness checks, words written out from the spec's encodings, one-step tests
taken from the spec's vectors (95), and for every statement with hypotheses a state that meets them. -/
namespace Sys2Proof.Tests
open Sys2Proof Sys2Proof.Machine

-- `State.Inv` is decided through a long chain of instances.
set_option synthInstance.maxSize 1024

/-! ## Helpers -/

/-- Whether an outcome is a next state with a property. -/
def runs (o : Host.Outcome State Fault Refusal) (p : State → Bool) : Bool :=
  match o with
  | .next t => p t
  | _ => false

/-- Whether an outcome is a fault of that name. -/
def faults (o : Host.Outcome State Fault Refusal) (f : Fault) : Bool :=
  match o with
  | .fault g => g == f
  | _ => false

/-- The newest response. -/
def last (t : State) : Option Response := t.responses.head?

/-- A bound instance at 0x0100 of the reference configuration, its slots listed from slot 0, with a port about to act. -/
def bound (port : Port) (pol : Policy) (mode : IndexMode) (cap ridx widx : Nat) (fullf : Bool) (slots : List Byte) : State :=
  { State.reset with
    issuer := port
    storage := (List.range slots.length).zipWith (fun k v => (0x100 + k, v)) slots
    regs := { lifecycle := .bound, cfgBase := 0x100, base := 0x100, cap := BitVec.ofNat 24 cap, pol := pol, mode := mode,
              ridx := BitVec.ofNat 24 ridx, widx := BitVec.ofNat 24 widx, fullf := fullf } }

/-- The block after POR and SETBASE, with a port about to act. -/
def unbound (port : Port) (base : Nat) : State :=
  { State.reset with issuer := port, regs := { Regs.por with cfgBase := BitVec.ofNat 24 base } }

/-- The block after an INIT that faulted, with a port about to act. -/
def faulted (port : Port) : State :=
  { State.reset with issuer := port, regs := { Regs.por with lifecycle := .faulted } }

/-- The indices and the full flag. -/
def idx (t : State) : Nat × Nat × Bool := (t.regs.ridx.toNat, t.regs.widx.toNat, t.regs.fullf)

/-- L2-CC: REJECT, MASK, 4 slots at 0x0100 holding 0x10, 0x11, 0x12: full. -/
def cc : State :=
  { bound .K .reject .mask 4 0 3 false [0x10, 0x11, 0x12] with
    pending := { k := none, p := some 0x50000013, c := some 0x60000000 } }

/-! ## Well-formedness: each check refuses an ill-formed term -/

theorem test_setbase_operand_has_24_bits : ¬ (Instr.setbase 0x1000000).WellFormed := by decide
theorem test_init_capacity_has_24_bits : ¬ (Instr.init .reject .mask 0x1000000).WellFormed := by decide
theorem test_write_operand_has_8_bits : ¬ (Instr.write 0x100).WellFormed := by decide
theorem test_largest_operands_are_well_formed :
    (Instr.setbase 0xFFFFFF).WellFormed ∧ (Instr.init .overwrite .modulo 0xFFFFFF).WellFormed ∧
    (Instr.write 0xFF).WellFormed := by decide

/-! ## Decoding: words written out from 30 R71 to R77, R86 and the vectors L2-LC, L2-EN -/

theorem test_decode_setbase : decode 0b00010000000000000000000100000000#32 = .ok (.setbase 0x100) := by decide
theorem test_decode_setbase_all_bits : decode 0b00010000111111111111111111110000#32 = .ok (.setbase 0xFFFFF0) := by decide
theorem test_decode_init_overwrite_modulo : decode 0b00101100000000000000000000010000#32 = .ok (.init .overwrite .modulo 16) := by
  decide
theorem test_decode_init_overwrite_mask : decode 0b00101000000000000001000000000000#32 = .ok (.init .overwrite .mask 4096) := by
  decide
theorem test_decode_init_reject_modulo : decode 0b00100100000000000000000000000011#32 = .ok (.init .reject .modulo 3) := by
  decide
theorem test_decode_deinit : decode 0b00110000000000000000000000000000#32 = .ok .deinit := by decide
theorem test_decode_reset : decode 0b01000000000000000000000000000000#32 = .ok .reset := by decide
theorem test_decode_write : decode 0b01010000000000000000000001100001#32 = .ok (.write 0x61) := by decide
theorem test_decode_read : decode 0b01100000000000000000000000000000#32 = .ok .read := by decide
theorem test_decode_isEmpty : decode 0b01110000000000000000000000000000#32 = .ok .isEmpty := by decide
theorem test_decode_isFull : decode 0b10000000000000000000000000000000#32 = .ok .isFull := by decide
theorem test_decode_size : decode 0b10010000000000000000000000000000#32 = .ok .size := by decide
theorem test_decode_capacity : decode 0b10100000000000000000000000000000#32 = .ok .capacity := by decide

/-- L2-EN-1 to L2-EN-6. -/
theorem test_reserved_opcodes_are_rejected :
    decode 0x00000000#32 = .error (.reservedOpcode 0x0#4) ∧ decode 0xB0000000#32 = .error (.reservedOpcode 0xB#4) ∧
    decode 0xC0000000#32 = .error (.reservedOpcode 0xC#4) ∧ decode 0xD0000000#32 = .error (.reservedOpcode 0xD#4) ∧
    decode 0xE0000000#32 = .error (.reservedOpcode 0xE#4) ∧ decode 0xF0000000#32 = .error (.reservedOpcode 0xF#4) := by
  refine ⟨?_, ?_, ?_, ?_, ?_, ?_⟩ <;> decide

/-- L2-EN-7 to L2-EN-17. -/
theorem test_reserved_bits_are_rejected :
    decode 0x21000010#32 = .error (.reservedBits 0x2#4) ∧ decode 0x22000010#32 = .error (.reservedBits 0x2#4) ∧
    decode 0x11000000#32 = .error (.reservedBits 0x1#4) ∧ decode 0x30000001#32 = .error (.reservedBits 0x3#4) ∧
    decode 0x40000100#32 = .error (.reservedBits 0x4#4) ∧ decode 0x50000100#32 = .error (.reservedBits 0x5#4) ∧
    decode 0x60800000#32 = .error (.reservedBits 0x6#4) ∧ decode 0x70000001#32 = .error (.reservedBits 0x7#4) ∧
    decode 0x8FFFFFFF#32 = .error (.reservedBits 0x8#4) ∧ decode 0x90000010#32 = .error (.reservedBits 0x9#4) ∧
    decode 0xA0000001#32 = .error (.reservedBits 0xA#4) := by
  refine ⟨?_, ?_, ?_, ?_, ?_, ?_, ?_, ?_, ?_, ?_, ?_⟩ <;> decide

theorem test_decodeTableWord :
    decodeTableWord 32 0x2C000010 = some (.init .overwrite .modulo 16) ∧ decodeTableWord 32 0xB0000000 = none := by decide

/-! ## The index unit: L2-IU -/

/-- L2-IU-3, -6, -7, -9, -11: (capacity, mode, index, next). -/
theorem test_next :
    ∀ x ∈ [(16, IndexMode.mask, 15, 0), (3, .modulo, 2, 0), (1, .mask, 0, 0), (4096, .mask, 4095, 0), (4095, .modulo, 4094, 0),
           (16, .mask, 14, 15), (3, .modulo, 1, 2)],
      (bound .K .reject x.2.1 x.1 0 0 false []).regs.next x.2.2.1 = x.2.2.2 := by decide

/-- L2-IU-14, -17, -18, -21, -22, -25: (policy, capacity, RIDX, WIDX, FULLF) and (size, empty, full, usable). -/
theorem test_occupancy :
    ∀ x ∈ [((Policy.reject, 16, 15, 0, false), (1, false, false, 15)), ((.reject, 3, 2, 1, false), (2, false, true, 2)),
           ((.reject, 1, 0, 0, false), (0, true, true, 0)), ((.overwrite, 16, 7, 7, true), (16, false, true, 16)),
           ((.overwrite, 16, 3, 2, false), (15, false, false, 16)), ((.overwrite, 1, 0, 0, false), (0, true, false, 1))],
      let r := (bound .K x.1.1 .modulo x.1.2.1 x.1.2.2.1 x.1.2.2.2.1 x.1.2.2.2.2 []).regs
      (r.size, r.isEmpty, r.isFull, r.usable) = x.2 := by decide

/-! ## One step of each command: L1, L2-LC, L2-DT, L2-Q -/

/-- L2-LC-1, as the first step after reset. -/
theorem test_setbase_loads_cfg_base :
    runs (step (State.reset.withFetchWord 32 0x10000100)) (fun t =>
      decide (t.regs = { Regs.por with cfgBase := 0x100 } ∧ last t = some { port := .K, word := 0x00000000 })) = true := by
  decide

/-- L2-LC-4: the bound window does not move. -/
theorem test_setbase_keeps_base :
    runs (exec (.setbase 0x200) (bound .K .reject .mask 16 0 0 false [])) (fun t =>
      decide (t.regs.cfgBase = 0x200 ∧ t.regs.base = 0x100 ∧ t.regs.cap = 16)) = true := by decide

/-- L2-LC-2. -/
theorem test_init_binds :
    runs (exec (.init .reject .mask 16) (unbound .K 0x100)) (fun t =>
      decide (t.regs = (bound .K .reject .mask 16 0 0 false []).regs ∧ last t = some { port := .K, word := 0x00000000 })) =
      true := by decide

/-- L2-LC-14 and L2-LC-15: 0xF001 + 4096 does not fit, 0xF000 + 4096 fits. -/
theorem test_init_checks_storage :
    runs (exec (.init .overwrite .mask 4096) (unbound .K 0xF001)) (fun t =>
      decide (t.regs.lifecycle = .faulted ∧ t.regs.cfgBase = 0xF001 ∧ last t = some { port := .K, word := 0x40000000 })) = true ∧
    runs (exec (.init .overwrite .mask 4096) (unbound .K 0xF000)) (fun t =>
      decide (t.regs.lifecycle = .bound ∧ t.regs.base = 0xF000)) = true := by decide

/-- L2-LC-5: the registers but CFG_BASE are 0, and the bytes stay. -/
theorem test_deinit_releases :
    runs (exec .deinit (bound .K .overwrite .modulo 3 1 2 false [0xAA, 0xBB])) (fun t =>
      decide (t.regs = { Regs.por with cfgBase := 0x100 } ∧ t.storage = [(0x100, 0xAA), (0x101, 0xBB)])) = true := by decide

/-- L2-LC-9. -/
theorem test_deinit_while_faulted :
    runs (exec .deinit (faulted .K)) (fun t => decide (t.regs = (faulted .K).regs ∧ last t = some { port := .K, word := 0x80000000 })) =
      true := by decide

/-- L2-LC-20: RESET clears FULLF and keeps the bytes. -/
theorem test_reset_empties :
    runs (exec .reset (bound .K .overwrite .mask 4 2 2 true [5, 6, 3, 4])) (fun t =>
      decide (idx t = (0, 0, false) ∧ t.regs.cap = 4 ∧ Memory.byteAt t.storage 0x103 = 4)) = true := by decide

/-- L2-LC-7. -/
theorem test_reset_while_unbound :
    runs (exec .reset State.reset) (fun t => decide (t.regs = Regs.por ∧ last t = some { port := .K, word := 0x50000000 })) =
      true := by decide

/-- L2-DT-7, first WRITE: a full OVERWRITE buffer drops its oldest byte. -/
theorem test_write_overwrites_when_full :
    runs (exec (.write 0xA4) (bound .P .overwrite .modulo 3 0 0 true [0xA1, 0xA2, 0xA3])) (fun t =>
      decide (idx t = (1, 1, true) ∧ t.storage = [(0x100, 0xA4), (0x101, 0xA2), (0x102, 0xA3)] ∧
        last t = some { port := .P, word := 0x00000000 })) = true := by decide

/-- L2-DT-1, fourth WRITE: a full REJECT buffer discards the byte. -/
theorem test_write_is_refused_when_full :
    runs (exec (.write 0x80) (bound .P .reject .mask 4 0 3 false [0x00, 0xFF, 0x7F])) (fun t =>
      decide (idx t = (0, 3, false) ∧ Memory.get? t.storage 0x103 = none ∧
        last t = some { port := .P, word := 0x10000000 })) = true := by decide

/-- L1-1, step 24: a READ with equal indices and FULLF = 1 succeeds. -/
theorem test_read_returns_the_oldest :
    runs (exec .read (bound .C .overwrite .modulo 16 1 1 true [0x61, 1, 2, 3])) (fun t =>
      decide (idx t = (2, 1, false) ∧ last t = some { port := .C, word := 0x00000001 })) = true := by decide

/-- L2-DT-11. -/
theorem test_read_of_an_empty_buffer :
    runs (exec .read (bound .C .reject .mask 4 2 2 false [])) (fun t =>
      decide (idx t = (2, 2, false) ∧ last t = some { port := .C, word := 0x20000000 })) = true := by decide

/-- L2-Q-3 and L2-Q-4. -/
theorem test_isEmpty :
    runs (exec .isEmpty (bound .K .overwrite .modulo 5 0 0 true [])) (fun t => decide (last t = some { port := .K, word := 0 })) =
      true ∧
    runs (exec .isEmpty (bound .K .overwrite .modulo 5 0 0 false [])) (fun t =>
      decide (last t = some { port := .K, word := 1 })) = true := by decide

/-- L2-Q-1 at port P, and L2-Q-3. -/
theorem test_isFull :
    runs (exec .isFull (bound .P .reject .mask 16 0 15 false [])) (fun t => decide (last t = some { port := .P, word := 1 })) =
      true ∧
    runs (exec .isFull (bound .K .overwrite .modulo 5 0 0 true [])) (fun t =>
      decide (last t = some { port := .K, word := 1 })) = true := by decide

/-- L2-Q-2 at port C, and L1-1 step 22. -/
theorem test_size :
    runs (exec .size (bound .C .reject .modulo 5 4 1 false [])) (fun t => decide (last t = some { port := .C, word := 2 })) =
      true ∧
    runs (exec .size (bound .K .overwrite .modulo 16 1 1 true [])) (fun t =>
      decide (last t = some { port := .K, word := 16 })) = true := by decide

/-- L2-Q-1, and L2-Q-5. -/
theorem test_capacity :
    runs (exec .capacity (bound .K .reject .mask 16 0 15 false [])) (fun t =>
      decide (last t = some { port := .K, word := 16 })) = true ∧
    runs (exec .capacity (faulted .K)) (fun t => decide (last t = some { port := .K, word := 0x80000000 })) = true := by decide

/-- L2-PR-1, L2-PR-2: the order of the checks. -/
theorem test_priority :
    runs (exec (.init .reject .mask 0) (bound .K .reject .mask 4 0 0 false [])) (fun t =>
      decide (t.regs.lifecycle = .bound ∧ last t = some { port := .K, word := 0x60000000 })) = true ∧
    runs (exec (.init .reject .mask 0) (bound .P .reject .mask 4 0 0 false [])) (fun t =>
      decide (t.regs.lifecycle = .bound ∧ last t = some { port := .P, word := 0x70000000 })) = true := by decide

/-! ## Moves: L2-CC, L2-RS, 20 R55 -/

/-- L2-EN-2 and L2-PR-3: an illegal word served while FAULTED. -/
theorem test_illegal_word :
    runs (step ((faulted .K).withFetchWord 32 0x21000010)) (fun t =>
      decide (t.regs = (faulted .K).regs ∧ last t = some { port := .K, word := 0x70000000 })) = true := by decide

/-- L2-CC-1 and L2-CC-2, the first command of each order. -/
theorem test_either_order :
    runs (step { cc with script := [.serve .P] }) (fun t => decide (last t = some { port := .P, word := 0x10000000 })) = true ∧
    runs (step { cc with script := [.serve .C] }) (fun t => decide (last t = some { port := .C, word := 0x00000010 })) = true := by
  decide

/-- 10 R42: the pending command is performed before its port takes another. -/
theorem test_issue_at_a_busy_port :
    runs (step { cc with script := [.issue .C 0x90000000] }) (fun t =>
      decide (t.pending.c = none ∧ t.script = [.issue .C 0x90000000] ∧
        last t = some { port := .C, word := 0x00000010 })) = true := by decide

/-- L2-RS-2: POR leaves storage and answers nothing. -/
theorem test_por :
    runs (step { cc with script := [.por] }) (fun t =>
      decide (t.regs = Regs.por ∧ t.pending = Slots.none ∧ t.responses = [] ∧ t.storage = cc.storage)) = true := by decide

/-- 93 I17, 60 R172: a POR after FAULTED starts a run that is not faulted, and the ended run stays marked. -/
theorem test_por_starts_a_new_run :
    runs (step { faulted .K with script := [.por], responses := [{ port := .K, word := 0x30000000 }] }) (fun t =>
      decide (t.GoodFinal ∧ t.responses = [] ∧ t.earlier.map RunRecord.runFaulted = [true] ∧
        t.allResponses = [{ port := .K, word := 0x30000000 }])) = true := by decide

/-- 70 R187: H may still read after the run's end, but a read of the bound window to come, or an issue to come in the same run,
keeps the state from being a good final one. -/
theorem test_good_final :
    let s := bound .K .reject .mask 4 0 0 false []
    { s with script := [.hostRead 0xFF, .por, .issue .K 0] }.GoodFinal ∧ ¬ { s with script := [.hostRead 0x100] }.GoodFinal ∧
    ¬ { s with script := [.sample, .issue .K 0] }.Ended ∧ ¬ (faulted .K).GoodFinal ∧ ¬ cc.Ended := by decide

/-- 70 R187: the responses at each port in order, and of the bytes H asks for only those outside the window 0x0100 .. 0x0103. -/
theorem test_observe :
    let s := { cc with
      responses := [{ port := .P, word := 2 }, { port := .C, word := 3 }, { port := .P, word := 1 }], storage := [(0xFF, 9), (0x100, 8)] }
    let o := s.observe [0x100, 0xFF]
    o.k = [] ∧ o.p = [1, 2] ∧ o.c = [3] ∧ o.bytes = [(0xFF, 9)] := by decide

/-- L2-RS-3, -4, -5, -6. -/
theorem test_outputs :
    (bound .K .reject .mask 16 0 0 false []).regs.outputs = { boundO := true, faultO := false, emptyO := true, fullO := false } ∧
    (bound .K .reject .mask 16 0 15 false []).regs.outputs = { boundO := true, faultO := false, emptyO := false, fullO := true } ∧
    (faulted .K).regs.outputs = { boundO := false, faultO := true, emptyO := false, fullO := false } ∧
    (bound .K .reject .mask 1 0 0 false []).regs.outputs = { boundO := true, faultO := false, emptyO := true, fullO := true } := by
  decide

/-- 20 R55: the first and last bytes of the window 0x0100 .. 0x0103 fault, their neighbours do not. -/
theorem test_host_and_window :
    faults (step { cc with script := [.hostRead 0x100] }) .hostTouchedBoundWindow = true ∧
    faults (step { cc with script := [.hostWrite 0x103 7] }) .hostTouchedBoundWindow = true ∧
    runs (step { cc with script := [.hostWrite 0x104 7] }) (fun t => decide (Memory.byteAt t.storage 0x104 = 7)) = true ∧
    runs (step { cc with script := [.hostWrite 0xFF 7] }) (fun t => decide (Memory.byteAt t.storage 0xFF = 7)) = true := by decide

/-! ## Witnesses: for each statement with hypotheses, states and operands that meet them -/

/-- The states the witnesses use meet the invariants: an empty and a full instance of each policy and each mode, capacity 1,
a block unbound and a block faulted. -/
theorem witness_invariants :
    (unbound .K 0xFFFFFF).Inv ∧ (faulted .K).Inv ∧ cc.Inv ∧
    (bound .P .reject .mask 4 0 0 false []).Inv ∧ (bound .P .reject .modulo 3 2 1 false []).Inv ∧
    (bound .P .overwrite .modulo 3 0 0 true [1, 2, 3]).Inv ∧ (bound .C .overwrite .mask 4096 4095 0 false []).Inv ∧
    (bound .P .reject .mask 1 0 0 false []).Inv ∧ (bound .P .overwrite .modulo 1 0 0 true []).Inv := by
  refine ⟨?_, ?_, ?_, ?_, ?_, ?_, ?_, ?_, ?_⟩ <;> decide

theorem witness_EncodedCommandDecodesToItself : (Instr.init .overwrite .modulo 0xFFFFFF).WellFormed := by decide
theorem witness_DecodedWordEncodesBack : decode 0x2CFFFFFF#32 = .ok (.init .overwrite .modulo 0xFFFFFF) := by decide
theorem witness_OpcodeMapDecidesWhatAWordSpells : OpRow.write ∈ OpRow.table ∧ OpRow.write.spells 0x500000FF#32 = true := by decide

theorem witness_UnspelledWordsAreIllegal :
    opcode 0x00000000#32 = 0x0#4 ∧ 0xB ≤ (opcode 0xB0000000#32).toNat ∧
    (OpRow.init ∈ OpRow.table ∧ opcode 0x21000010#32 = opcode OpRow.init.fixed ∧
      0x21000010#32 &&& (OpRow.init.mask &&& ~~~OpRow.init.fixed) ≠ 0#32) ∧
    (∀ row ∈ OpRow.table, row.spells 0x21000010#32 = false) := by decide

theorem witness_DecodeThenPortThenRule :
    (∀ row ∈ OpRow.table, ¬ 0xB0000000#32 &&& row.mask = row.fixed) ∧
    (decode 0x50000001#32 = .ok (.write 1) ∧ (Instr.write 1).legalAt (unbound .K 0).issuer = false) ∧
    (decode 0x50000001#32 = .ok (.write 1) ∧ (Instr.write 1).legalAt (unbound .P 0).issuer = true) := by decide

theorem witness_CommandAtWrongPortIsIllegal : Instr.read.legalAt (unbound .P 0).issuer = false := by decide

theorem witness_ServedCommandGetsOneResponseWord :
    ({ cc with script := [.serve .P] } : State).script = [.serve .P] ∧ cc.pending.get .P = some 0x50000013 ∧ cc.Inv := by decide

theorem witness_StepPerformsTheDecodedCommand :
    ({ cc with script := [.serve .P] } : State).script = .serve .P :: [] ∧ cc.pending.get .P = some 0x50000013 ∧
    decode 0x50000013#32 = .ok (.write 0x13) := by decide

theorem witness_EmptyScriptServesAPendingCommand : cc.script = [] ∧ cc.pending ≠ Slots.none := by decide

theorem witness_PortHoldsOnePendingCommand :
    ({ cc with script := [.issue .K 0x90000000] } : State).script = .issue .K 0x90000000 :: [] ∧ cc.pending.get .K = none ∧
    ({ cc with script := [.issue .C 0x90000000] } : State).script = .issue .C 0x90000000 :: [] ∧
    cc.pending.get .C = some 0x60000000 := by decide

theorem witness_PendingCommandsComplete : cc.Inv ∧ cc.script = [] := by decide

/-- The three cases: full, empty, and neither. -/
theorem witness_ConcurrentWriteAndReadInEitherOrder :
    (∀ s ∈ [cc, { cc with regs := { cc.regs with widx := 0 } }, { cc with regs := { cc.regs with widx := 2 } }],
      s.Inv ∧ s.regs.lifecycle = .bound ∧ s.regs.pol = .reject ∧
      s.pending.get .P = some (encode (.write 0x13)) ∧ s.pending.get .C = some (encode .read)) ∧
    (cc.regs.isEmpty = false ∧ cc.regs.isFull = true) ∧
    (({ cc.regs with widx := 0 } : Regs).isEmpty = true ∧ ({ cc.regs with widx := 0 } : Regs).isFull = false) ∧
    (({ cc.regs with widx := 2 } : Regs).isEmpty = false ∧ ({ cc.regs with widx := 2 } : Regs).isFull = false) := by decide

/-- Each case: wrong port, FAULTED, and SETBASE while unbound and while bound. -/
theorem witness_SetbaseLoadsTheNextBase :
    0xFFFFFF < 2 ^ 24 ∧ (unbound .P 0).issuer ≠ .K ∧
    ((faulted .K).issuer = .K ∧ (faulted .K).regs.lifecycle = .faulted) ∧
    ((unbound .K 0).issuer = .K ∧ (unbound .K 0).regs.lifecycle ≠ .faulted) ∧
    ((bound .K .reject .mask 4 0 0 false []).issuer = .K ∧
      (bound .K .reject .mask 4 0 0 false []).regs.lifecycle ≠ .faulted) := by decide

/-- Each case: wrong port, FAULTED, BOUND, an invalid capacity (0, and one above CAP_MAX), an invalid storage (0xF001 + 4096) and the
largest window that fits (0xF000 + 4096). -/
theorem witness_InitBindsOrRefuses :
    State.reset.cfg.Valid ∧ 4096 < 2 ^ 24 ∧ (unbound .P 0).issuer ≠ .K ∧ (faulted .K).regs.lifecycle = .faulted ∧
    (bound .K .reject .mask 4 0 0 false []).regs.lifecycle = .bound ∧
    ((unbound .K 0xF001).issuer = .K ∧ (unbound .K 0xF001).regs.lifecycle = .unbound) ∧
    (¬ (1 ≤ 0 ∧ 0 ≤ State.reset.cfg.capMax ∧ (IndexMode.modulo = .modulo ∨ ∃ k, 0 = 2 ^ k)) ∧
      ¬ (1 ≤ 4097 ∧ 4097 ≤ State.reset.cfg.capMax ∧ (IndexMode.modulo = .modulo ∨ ∃ k, 4097 = 2 ^ k))) ∧
    (1 ≤ 4096 ∧ 4096 ≤ State.reset.cfg.capMax ∧ (IndexMode.mask = .modulo ∨ ∃ k, 4096 = 2 ^ k)) ∧
    ¬ (unbound .K 0xF001).regs.cfgBase.toNat + 4096 ≤ 2 ^ State.reset.cfg.addrW ∧
    (unbound .K 0xF000).regs.cfgBase.toNat + 4096 ≤ 2 ^ State.reset.cfg.addrW :=
  ⟨by decide, by decide, by decide, by decide, by decide, by decide,
   ⟨fun h => absurd h.1 (by decide), fun h => absurd h.2.1 (by decide)⟩,
   ⟨by decide, by decide, .inr ⟨12, by decide⟩⟩, by decide, by decide⟩

/-- The hypotheses that DEINIT, RESET and the idempotence of RESET share: each lifecycle state at port K, and a wrong port. -/
theorem witness_DeinitReleasesTheInstance :
    (unbound .P 0).issuer ≠ .K ∧ ((faulted .K).issuer = .K ∧ (faulted .K).regs.lifecycle = .faulted) ∧
    ((unbound .K 0).issuer = .K ∧ (unbound .K 0).regs.lifecycle = .unbound) ∧
    ((bound .K .overwrite .modulo 3 2 2 true []).issuer = .K ∧
      (bound .K .overwrite .modulo 3 2 2 true []).regs.lifecycle = .bound) := by decide
theorem witness_ResetEmptiesTheInstance :
    (unbound .C 0).issuer ≠ .K ∧ ((faulted .K).issuer = .K ∧ (faulted .K).regs.lifecycle = .faulted) ∧
    ((unbound .K 0).issuer = .K ∧ (unbound .K 0).regs.lifecycle = .unbound) ∧
    ((bound .K .reject .modulo 5 1 3 false []).issuer = .K ∧
      (bound .K .reject .modulo 5 1 3 false []).regs.lifecycle = .bound) := by decide
theorem witness_ResetIsIdempotent :
    (bound .K .reject .modulo 5 1 3 false []).issuer = .K ∧ (bound .K .reject .modulo 5 1 3 false []).regs.lifecycle = .bound := by
  decide

/-- An INIT and a RESET answered OK. -/
theorem witness_FreshBufferReadsEmpty :
    runs (exec (.init .reject .mask 1) (unbound .K 0xFFFF)) (fun t => decide ((unbound .K 0xFFFF).Answered t .ok 0)) = true ∧
    runs (exec .reset (bound .K .reject .modulo 5 1 3 false [])) (fun t =>
      decide ((bound .K .reject .modulo 5 1 3 false []).Answered t .ok 0)) = true := by decide

theorem witness_SetupBindsAnInstance :
    State.reset.cfg.Valid ∧ 0xF000 < 2 ^ 24 ∧ State.reset.regs.lifecycle = .unbound ∧ 1 ≤ 4096 ∧ 4096 ≤ State.reset.cfg.capMax ∧
    (IndexMode.mask = .modulo ∨ ∃ k, 4096 = 2 ^ k) ∧ 0xF000 + 4096 ≤ 2 ^ State.reset.cfg.addrW :=
  ⟨by decide, by decide, by decide, by decide, by decide, .inr ⟨12, by decide⟩, by decide⟩

/-- Each case of WRITE: wrong port, FAULTED, unbound, REJECT full and not full, OVERWRITE full and not full. -/
theorem witness_WriteAppendsOrRefuses :
    255 < 2 ^ 8 ∧ ((unbound .C 0).Inv ∧ (unbound .C 0).issuer ≠ .P) ∧
    ((faulted .P).Inv ∧ (faulted .P).issuer = .P ∧ (faulted .P).regs.lifecycle = .faulted) ∧
    ((unbound .P 0).Inv ∧ (unbound .P 0).issuer = .P ∧ (unbound .P 0).regs.lifecycle = .unbound) ∧
    (∀ x ∈ [(15, true), (14, false)],
      let s := bound .P .reject .mask 16 0 x.1 false []
      s.Inv ∧ s.issuer = .P ∧ s.regs.lifecycle = .bound ∧ s.regs.pol = .reject ∧
        (s.regs.next s.regs.widx.toNat = s.regs.ridx.toNat ↔ x.2 = true)) ∧
    (∀ full ∈ [true, false],
      let s := bound .P .overwrite .modulo 3 0 0 full []
      s.Inv ∧ s.issuer = .P ∧ s.regs.lifecycle = .bound ∧ s.regs.pol = .overwrite ∧ s.regs.fullf = full) := by decide

/-- Each case of READ: wrong port, FAULTED, unbound, empty, and equal indices with FULLF = 1. -/
theorem witness_ReadReturnsTheOldestByte :
    ((unbound .P 0).Inv ∧ (unbound .P 0).issuer ≠ .C) ∧
    ((faulted .C).Inv ∧ (faulted .C).issuer = .C ∧ (faulted .C).regs.lifecycle = .faulted) ∧
    ((unbound .C 0).Inv ∧ (unbound .C 0).issuer = .C ∧ (unbound .C 0).regs.lifecycle = .unbound) ∧
    (∀ full ∈ [true, false],
      let s := bound .C .overwrite .modulo 3 2 2 full []
      s.Inv ∧ s.issuer = .C ∧ s.regs.lifecycle = .bound ∧
        ((s.regs.ridx = s.regs.widx ∧ s.regs.fullf = false) ↔ full = false)) := by decide

/-- Each case of 42 R129: WRITE not full, full under each policy; READ with and without content; RESET, INIT, a query. -/
theorem witness_CommandsActOnContentAsFifo :
    ((bound .P .reject .mask 4 0 2 false []).Inv ∧ (bound .P .reject .mask 4 0 2 false []).regs.isFull = false) ∧
    ((bound .P .overwrite .modulo 3 0 0 true []).Inv ∧ (bound .P .overwrite .modulo 3 0 0 true []).regs.isFull = true) ∧
    ((bound .P .reject .mask 4 0 3 false []).Inv ∧ (bound .P .reject .mask 4 0 3 false []).regs.isFull = true) ∧
    ((bound .C .reject .mask 4 3 0 false [8, 0, 0, 7]).Inv ∧
      (bound .C .reject .mask 4 3 0 false [8, 0, 0, 7]).content = 7 :: []) ∧
    ((bound .C .reject .mask 4 3 3 false []).Inv ∧ (bound .C .reject .mask 4 3 3 false []).content = []) ∧
    runs (exec .reset (bound .K .reject .mask 4 0 2 false [])) (fun t =>
      decide ((bound .K .reject .mask 4 0 2 false []).Answered t .ok 0)) = true ∧
    runs (exec (.init .reject .mask 4) (unbound .K 0)) (fun t => decide ((unbound .K 0).Answered t .ok 0)) = true ∧
    runs (exec .size (bound .K .reject .mask 4 0 2 false [])) (fun _ => true) = true := by decide

theorem witness_CommandsRefineAByteQueue :
    (bound .K .overwrite .modulo 3 2 2 false []).Inv ∧ (bound .K .overwrite .modulo 3 2 2 false []).regs.lifecycle = .bound ∧
    ∀ c ∈ [(Port.P, Instr.write 1), (.P, .write 2), (.P, .write 3), (.P, .write 4), (.C, .read), (.K, .size), (.C, .isFull)],
      c.2.legalAt c.1 = true ∧ ((bound .K .overwrite .modulo 3 2 2 false []).queue.perform c.2).isSome = true := by decide

/-- Two WRITEs, the most a REJECT instance of 3 slots holds, and two READs. -/
theorem witness_TransfersReturnBytesInOrder :
    let s := bound .K .reject .modulo 3 2 2 false []
    let cmds := [(Port.P, Instr.write 5), (.P, .write 6), (.C, .read), (.C, .read)]
    s.Inv ∧ s.regs.lifecycle = .bound ∧ s.regs.size = 0 ∧ (∀ c ∈ cmds, isTransfer c = true) ∧
    (writtenBytes cmds).length ≤ s.regs.usable ∧
    runs (performAll cmds s) (fun t => decide (∀ r ∈ t.responses, r.word ≠ responseWord .bufferEmpty 0)) = true := by decide

/-- A READ of the empty instance, a WRITE, and a READ: the one WRITE finds the buffer not full. -/
theorem witness_SizeCountsWritesLessReads :
    let s := bound .K .reject .modulo 3 2 2 false []
    s.Inv ∧ s.regs.lifecycle = .bound ∧ s.regs.size = 0 ∧
    (∀ c ∈ [(Port.C, Instr.read), (.P, .write 5), (.C, .read)], isTransfer c = true) ∧
    runs (performAll [(Port.C, Instr.read)] s) (fun u => u.regs.isFull == false) = true ∧
    runs (performAll [(Port.C, Instr.read), (.P, .write 5), (.C, .read)] s) (fun t =>
      decide (t.responses = [{ port := .C, word := 5 }, { port := .P, word := 0 }, { port := .C, word := 0x20000000 }])) = true := by
  decide

theorem witness_ReadsReturnOnlyWrittenBytes :
    let s := bound .K .reject .modulo 3 2 2 false []
    s.Inv ∧ s.regs.size = 0 ∧
    runs (performAll [(Port.P, Instr.write 9), (.K, .reset), (.P, .write 5)] s) (fun t => runs (performAt .C .read t) (fun u =>
      decide (u.responses = { port := .C, word := responseWord .ok 5 } :: t.responses))) = true := by decide

/-- WRITE and READ from Empty, Partial and Full under each policy. -/
theorem witness_FillStateTransitions :
    ∀ x ∈ [(Policy.reject, 0, false, Fill.empty), (.reject, 1, false, .partly), (.reject, 2, false, .full),
           (.overwrite, 0, false, .empty), (.overwrite, 2, false, .partly), (.overwrite, 0, true, .full)],
      let s := fun port => bound port x.1 .modulo 3 0 x.2.1 x.2.2.1 [7, 8, 9]
      (s .P).Inv ∧ (s .P).regs.lifecycle = .bound ∧ (s .P).regs.fill = x.2.2.2 ∧
      runs (exec (.write 1) (s .P)) (fun _ => true) = true ∧ runs (exec .read (s .C)) (fun _ => true) = true := by decide

theorem witness_QueriesAnswerFromTheRegisters :
    ((faulted .P).Inv ∧ (faulted .P).regs.lifecycle = .faulted) ∧ ((unbound .C 0).Inv ∧ (unbound .C 0).regs.lifecycle = .unbound) ∧
    ((bound .P .overwrite .modulo 3 2 2 true []).Inv ∧ (bound .P .overwrite .modulo 3 2 2 true []).regs.lifecycle = .bound) := by
  decide

theorem witness_QueriesChangeNothing :
    runs (exec .size (bound .P .reject .mask 4 3 1 false [])) (fun t =>
      runs (performAll [(.K, .setbase 1), (.C, .isFull)] t) (fun u => runs (performAt .C .size u) (fun _ => true))) = true := by
  decide

theorem witness_QueriesAgree :
    (bound .C .overwrite .modulo 3 2 2 true []).Inv ∧ (bound .C .overwrite .modulo 3 2 2 true []).regs.lifecycle = .bound := by
  decide

/-- Each lifecycle command gives a next state that its frame speaks of. -/
theorem witness_LifecycleCommandsKeepTheRest :
    ∀ i ∈ [Instr.setbase 7, .init .reject .mask 4, .deinit, .reset],
      runs (exec i (bound .K .reject .mask 4 3 1 false [])) (fun _ => true) = true ∧
      runs (exec i (unbound .K 0)) (fun _ => true) = true := by decide

/-- WRITE under REJECT, and under OVERWRITE with and without a full buffer. -/
theorem witness_WriteKeepsTheRest :
    ∀ s ∈ [bound .P .reject .mask 4 3 1 false [], bound .P .overwrite .modulo 3 1 1 true [], bound .P .overwrite .modulo 3 1 2 false []],
      runs (exec (.write 9) s) (fun t => decide (s.Answered t .ok 0)) = true ∧
      (0xFF ≠ s.regs.base.toNat + s.regs.widx.toNat) := by decide

theorem witness_ReadKeepsTheRest :
    runs (exec .read (bound .C .overwrite .modulo 3 1 1 true [4, 5, 6])) (fun t =>
      decide ((bound .C .overwrite .modulo 3 1 1 true [4, 5, 6]).Answered t .ok 5)) = true := by decide

theorem witness_StatusFollowsThePriorityList :
    (unbound .K 0xFFFFF0).Inv ∧ (Instr.init .reject .mask 0).WellFormed ∧
    statusByPriority (.init .reject .mask 0) (unbound .K 0xFFFFF0) = .invalidCapacity := by decide

/-- Each of the six statuses is answered somewhere. -/
theorem witness_EachStatusHasItsCause :
    ∀ x ∈ [(bound .P .reject .mask 4 0 3 false [], Instr.write 1, Status.bufferFull),
           (bound .C .reject .mask 4 3 3 false [], .read, .bufferEmpty),
           (unbound .K 0, .init .reject .mask 12, .invalidCapacity),
           (unbound .K 0xF001, .init .overwrite .mask 4096, .invalidStorage),
           (unbound .C 0, .read, .notBound),
           (bound .K .reject .mask 4 0 3 false [], .init .reject .mask 4, .alreadyBound)],
      runs (exec x.2.1 x.1) (fun t => decide (x.1.Answered t x.2.2 0)) = true := by decide

theorem witness_UnboundBlockAnswersNotBound :
    (unbound .K 0).regs.lifecycle = .unbound ∧ Instr.reset.legalAt (unbound .K 0).issuer = true ∧
    Instr.deinit.legalAt (unbound .K 0).issuer = true := by decide

theorem witness_FaultedBlockAnswersFaulted :
    (faulted .P).regs.lifecycle = .faulted ∧ (Instr.write 1).legalAt (faulted .P).issuer = true := by decide

theorem witness_OnlyInvalidInitEntersFaulted :
    runs (exec (.init .reject .modulo 0) (unbound .K 5)) (fun t => decide (t.regs.lifecycle = .faulted)) = true ∧
    (unbound .K 5).regs.lifecycle ≠ .faulted ∧ (unbound .K 5).regs.ClearWhileUnbound := by decide

theorem witness_OnlyPorLeavesFaulted :
    (faulted .K).regs.lifecycle = .faulted ∧
    runs (step { faulted .K with script := [.issue .K 0x10000000] }) (fun _ => true) = true ∧
    runs (step { faulted .K with script := [.por] }) (fun _ => true) = true := by decide

/-- An INIT that binds and one that faults, a DEINIT, and each refused command. -/
theorem witness_LifecycleStateMachine :
    (∀ x ∈ [(unbound .K 0, Instr.init .reject .mask 4), (unbound .K 0, .init .reject .mask 5), (bound .K .reject .mask 4 0 0 false [], .deinit),
            (unbound .K 0, .deinit), (unbound .K 0, .reset), (bound .K .reject .mask 4 0 0 false [], .init .reject .mask 4),
            (faulted .K, .reset)],
      x.2.legalAt x.1.issuer = true ∧ runs (exec x.2 x.1) (fun _ => true) = true) ∧
    runs (step { cc with script := [.por] }) (fun _ => true) = true := by decide

theorem witness_NextIsTheSuccessorModuloCapacity :
    Config.reference.Valid ∧
    ∀ x ∈ [(IndexMode.mask, 4096), (.modulo, 4095), (.modulo, 1)],
      let r := (bound .K .reject x.1 x.2 0 0 false []).regs
      r.ShapedWhileBound Config.reference ∧ r.lifecycle = .bound ∧ x.2 - 1 < r.cap.toNat := by decide

/-- Both cases: `w` below `r`, and `w` at least `r`. -/
theorem witness_DistIsTheRemainder :
    let r := (bound .K .reject .modulo 5 4 1 false []).regs
    0 < r.cap.toNat ∧ 4 < r.cap.toNat ∧ ¬ 4 ≤ 0 ∧ 0 ≤ 4 := by decide

theorem witness_EmptyExactlyAtSizeZero :
    ∀ s ∈ [bound .K .reject .mask 1 0 0 false [], bound .K .overwrite .modulo 1 0 0 true []],
      s.regs.Inv Config.reference ∧ s.regs.lifecycle = .bound := by decide

theorem witness_FullExactlyAtUsableSize :
    Config.reference.Valid ∧
    ∀ s ∈ [bound .K .reject .mask 4 1 0 false [], bound .K .overwrite .modulo 3 2 2 true []],
      s.regs.Inv Config.reference ∧ s.regs.lifecycle = .bound := by decide

theorem witness_SizeNeverExceedsUsable :
    cc.Inv ∧ runs (Sys2Proof.core.run 1 { cc with script := [.serve .P] }) (fun t => decide (t.regs.lifecycle = .bound)) = true := by
  decide

theorem witness_WriteSlotFollowsTheNewestByte :
    (bound .K .overwrite .modulo 3 2 2 true []).regs.Inv Config.reference ∧
    (bound .K .overwrite .modulo 3 2 2 true []).regs.lifecycle = .bound := by decide

theorem witness_CapacityOneInstances :
    ∀ s ∈ [bound .K .reject .mask 1 0 0 false [], bound .K .overwrite .modulo 1 0 0 true []],
      s.Inv ∧ s.regs.lifecycle = .bound ∧ s.regs.cap = 1 := by decide

theorem witness_CapacityIsConstantWhileBound :
    cc.regs.lifecycle = .bound ∧
    runs (step { cc with script := [.serve .C] }) (fun t => decide (t.regs.lifecycle = .bound)) = true := by decide

theorem witness_CfgBaseChangesOnlyBySetbaseOrPor :
    runs (step (State.reset.withFetchWord 32 0x10FFFFFF)) (fun t => decide (t.regs.cfgBase ≠ State.reset.regs.cfgBase)) = true ∧
    runs (step { cc with script := [.por] }) (fun t => decide (t.regs.cfgBase ≠ cc.regs.cfgBase)) = true := by decide

theorem witness_BlockWritesOnlyInsideTheWindow :
    let s := bound .P .overwrite .modulo 3 2 2 true []
    s.Inv ∧ runs (exec (.write 1) s) (fun _ => true) = true ∧
    ¬ (s.regs.lifecycle = .bound ∧ s.regs.base.toNat ≤ 0x103 ∧ 0x103 < s.regs.base.toNat + s.regs.cap.toNat) := by decide

/-- The two addresses beside the window 0x0100 .. 0x0103, its first and its last byte, and the last address of all. -/
theorem witness_HostMayTouchStorageOutsideTheWindow :
    (∀ a ∈ [0xFF, 0x104, 0xFFFF], a < 2 ^ cc.cfg.addrW ∧
      ¬ (cc.regs.lifecycle = .bound ∧ cc.regs.base.toNat ≤ a ∧ a < cc.regs.base.toNat + cc.regs.cap.toNat)) ∧
    (∀ a ∈ [0x100, 0x103], a < 2 ^ cc.cfg.addrW ∧
      (cc.regs.lifecycle = .bound ∧ cc.regs.base.toNat ≤ a ∧ a < cc.regs.base.toNat + cc.regs.cap.toNat)) ∧
    ({ cc with script := [.hostRead 0xFF] } : State).script = .hostRead 0xFF :: [] ∧
    ({ cc with script := [.hostWrite 0xFF 1] } : State).script = .hostWrite 0xFF 1 :: [] ∧
    runs (exec .deinit { cc with issuer := .K }) (fun _ => true) = true := by decide

theorem witness_StatusOutputsFollowTheRegisters : ({ cc with script := [.sample] } : State).script = .sample :: [] := by decide
theorem witness_PorResetsTheBlock : ({ cc with script := [.por] } : State).script = .por :: [] := by decide
theorem witness_ResetStateIsALaunchState :
    Config.Valid { capMax := 2 ^ 24 - 1, addrW := 24 } ∧ cc.Inv ∧ ({ cc with script := [.por] } : State).script = .por :: [] ∧
    runs (step { cc with script := [.por] }) (fun _ => true) = true := by decide

theorem witness_StepKeepsTheInvariants :
    cc.Inv ∧ runs (step { cc with script := [.serve .C] }) (fun _ => true) = true ∧
    (∀ rest, ({ cc with script := [.serve .C] } : State).script ≠ .por :: rest) :=
  ⟨by decide, by decide, fun _ h => by cases h⟩

/-- The most WRITEs that leave one free slot, and OVERWRITE on a full buffer. -/
theorem witness_ProducerViewStaysValid :
    (let s := bound .K .reject .modulo 3 2 2 false []
     s.Inv ∧ s.regs.lifecycle = .bound ∧ (∀ c ∈ [(Port.P, Instr.write 1), (.K, .reset)], c.2 ≠ .deinit) ∧
     s.regs.size + writeCount [(Port.P, Instr.write 1), (.K, .reset)] < s.regs.usable ∧
     runs (performAll [(Port.P, Instr.write 1), (.K, .reset)] s) (fun _ => true) = true) ∧
    (let s := bound .K .overwrite .modulo 3 2 2 true []
     s.Inv ∧ s.regs.lifecycle = .bound ∧ s.regs.pol = .overwrite ∧ runs (performAll [] s) (fun _ => true) = true) := by decide

theorem witness_ConsumerViewStaysValid :
    let s := bound .K .overwrite .modulo 3 2 2 true [1, 2, 3]
    s.Inv ∧ s.regs.lifecycle = .bound ∧
    (∀ c ∈ [(Port.C, Instr.read), (.P, .write 1), (.C, .read)], c.2 ≠ .deinit ∧ c.2 ≠ .reset) ∧
    readCount [(Port.C, Instr.read), (.P, .write 1), (.C, .read)] < s.regs.size ∧
    runs (performAll [(Port.C, Instr.read), (.P, .write 1), (.C, .read)] s) (fun _ => true) = true := by decide

end Sys2Proof.Tests
end

section
/-! SUPPORT. What one command can do, said once with the checks it passed; what every command keeps of its environment; and that
a bound window inside the storage space is kept, so that no command faults on an address. -/
namespace Sys2Proof.Machine

/-! ### What one command can do -/

/-- What performing a command in `s` can end in, one case per way of 41, 42 and 43, with the checks that were passed. -/
inductive Performs (s : State) : Instr → Host.Outcome State Fault Refusal → Prop
  | refused (i : Instr) (st : Status) (hst : st ≠ .ok) : Performs s i (.next (s.respond st 0))
  | queried (i : Instr) (v : Reg) (hi : i ∈ [.isEmpty, .isFull, .size, .capacity]) (hl : s.regs.lifecycle = .bound) :
    Performs s i (.next (s.respond .ok v))
  | nothingToRelease (hl : s.regs.lifecycle = .unbound) : Performs s .deinit (.next (s.respond .ok 0))
  | setbase (base : Nat) (hl : s.regs.lifecycle ≠ .faulted) :
    Performs s (.setbase base)
      (.next (State.respond .ok 0 (s.withRegs { s.regs with cfgBase := BitVec.ofNat 24 base })))
  | initRefused (pol : Policy) (mode : IndexMode) (cap : Nat) (st : Status) (hst : st ≠ .ok)
    (hl : s.regs.lifecycle = .unbound) :
    Performs s (.init pol mode cap) (.next (s.enterFault.respond st 0))
  | initBound (pol : Policy) (mode : IndexMode) (cap : Nat) (hl : s.regs.lifecycle = .unbound)
    (hcap : capValid s.cfg cap mode = true) (hstore : storageValid s.cfg s.regs.cfgBase.toNat cap = true) :
    Performs s (.init pol mode cap)
      (.next (State.respond .ok 0 (s.withRegs (s.regs.boundTo s.cfg pol mode cap))))
  | released (hl : s.regs.lifecycle = .bound) :
    Performs s .deinit (.next (State.respond .ok 0 (s.withRegs s.regs.released)))
  | emptied (hl : s.regs.lifecycle = .bound) :
    Performs s .reset (.next (State.respond .ok 0 (s.withRegs s.regs.emptied)))
  | stored (d : Nat) (hl : s.regs.lifecycle = .bound) (hfree : s.regs.pol = .reject → s.regs.isFull = false)
    (ha : s.regs.writeAddr < 2 ^ s.cfg.addrW) :
    Performs s (.write d)
      (.next (State.respond .ok 0 ((s.putByte s.regs.writeAddr (BitVec.ofNat 8 d)).withRegs (s.regs.afterWrite s.cfg))))
  | loaded (hl : s.regs.lifecycle = .bound) (hsome : s.regs.isEmpty = false)
    (ha : s.regs.readAddr < 2 ^ s.cfg.addrW) :
    Performs s .read
      (.next (State.respond .ok ((Memory.byteAt s.storage s.regs.readAddr).setWidth 24)
        (s.withRegs (s.regs.afterRead s.cfg))))
  | storeOutside (d : Nat) (hl : s.regs.lifecycle = .bound) (ha : ¬ s.regs.writeAddr < 2 ^ s.cfg.addrW) :
    Performs s (.write d) (.fault .blockAddressOutsideStorage)
  | loadOutside (hl : s.regs.lifecycle = .bound) (ha : ¬ s.regs.readAddr < 2 ^ s.cfg.addrW) :
    Performs s .read (.fault .blockAddressOutsideStorage)

theorem Performs.whenLegal {s : State} {i : Instr} {o : Host.Outcome State Fault Refusal} (h : Performs s i o) :
    Performs s i (whenLegal i s o) := by
  unfold Machine.whenLegal
  split
  · exact h
  · exact .refused i _ (by decide)

theorem Performs.whenBound {s : State} {i : Instr} {o : Host.Outcome State Fault Refusal}
    (h : s.regs.lifecycle = .bound → Performs s i o) : Performs s i (whenBound s o) := by
  unfold Machine.whenBound
  split
  · exact .refused i _ (by decide)
  · exact .refused i _ (by decide)
  · exact h ‹_›

/-- A query answers its value and changes nothing else (43). -/
theorem Performs.query {i : Instr} (s : State) (v : Reg) (hi : i ∈ [.isEmpty, .isFull, .size, .capacity]) :
    Performs s i (Machine.whenLegal i s (Machine.whenBound s (answer .ok v s))) :=
  .whenLegal (.whenBound (.queried i v hi))

theorem execSetbase_performs (base : Nat) (s : State) : Performs s (.setbase base) (execSetbase base s) := by
  refine .whenLegal ?_
  by_cases hl : s.regs.lifecycle = .faulted
  · rw [unlessFaulted_faulted _ hl]
    exact .refused _ _ (by decide)
  · rw [unlessFaulted_other _ hl]
    exact .setbase base hl

theorem execInit_performs (pol : Policy) (mode : IndexMode) (cap : Nat) (s : State) :
    Performs s (.init pol mode cap) (execInit pol mode cap s) := by
  refine .whenLegal ?_
  split
  case h_1 => exact .refused _ _ (by decide)
  case h_2 => exact .refused _ _ (by decide)
  case h_3 hl =>
    split
    · exact .initRefused pol mode cap _ (by decide) hl
    · split
      · exact .initRefused pol mode cap _ (by decide) hl
      · exact .initBound pol mode cap hl (by simpa using ‹¬ (!capValid s.cfg cap mode) = true›)
          (by simpa using ‹¬ (!storageValid s.cfg s.regs.cfgBase.toNat cap) = true›)

theorem execDeinit_performs (s : State) : Performs s .deinit (execDeinit s) := by
  refine .whenLegal ?_
  split
  case h_1 => exact .refused _ _ (by decide)
  case h_2 hl => exact .nothingToRelease hl
  case h_3 hl => exact .released hl

/-- The access of a WRITE that is not refused (42 R125): inside the storage space it stores, outside it faults. -/
theorem memWrite_performs {s : State} (d : Nat) (hl : s.regs.lifecycle = .bound)
    (hfree : s.regs.pol = .reject → s.regs.isFull = false) :
    Performs s (.write d) (memWrite s.regs.writeAddr (BitVec.ofNat 8 d) s fun t =>
      answer .ok 0 (t.withRegs (t.regs.afterWrite t.cfg))) := by
  by_cases ha : s.regs.writeAddr < 2 ^ s.cfg.addrW
  · rw [memWrite_inside _ ha]
    exact .stored d hl hfree ha
  · rw [memWrite_outside _ ha]
    exact .storeOutside d hl ha

theorem execWrite_performs (d : Nat) (s : State) : Performs s (.write d) (execWrite d s) := by
  refine .whenLegal (.whenBound fun hl => ?_)
  split
  case h_1 =>
    split
    · exact .refused _ _ (by decide)
    · exact memWrite_performs d hl fun _ => by simpa using ‹¬ s.regs.isFull = true›
  case h_2 hpol => exact memWrite_performs d hl fun h => by simp [hpol] at h

theorem execRead_performs (s : State) : Performs s .read (execRead s) := by
  refine .whenLegal (.whenBound fun hl => ?_)
  split
  · exact .refused _ _ (by decide)
  · by_cases ha : s.regs.readAddr < 2 ^ s.cfg.addrW
    · rw [memRead_inside _ ha]
      exact .loaded hl (by simpa using ‹¬ s.regs.isEmpty = true›) ha
    · rw [memRead_outside _ ha]
      exact .loadOutside hl ha

/-- Every command ends in one of the ways of `Performs`. -/
theorem exec_performs (i : Instr) (s : State) : Performs s i (exec i s) := by
  cases i with
  | setbase base => exact execSetbase_performs base s
  | init pol mode cap => exact execInit_performs pol mode cap s
  | deinit => exact execDeinit_performs s
  | reset => exact .whenLegal (.whenBound .emptied)
  | write d => exact execWrite_performs d s
  | read => exact execRead_performs s
  | isEmpty => exact .query s _ (by simp)
  | isFull => exact .query s _ (by simp)
  | size => exact .query s _ (by simp)
  | capacity => exact .query s _ (by simp)

/-! ### Performing a word -/

theorem perform_of_decode {cw : Word} {i : Instr} (s : State) (h : decode cw = .ok i) : perform cw s = exec i s := by
  simp [perform, h]

/-- A word is its command, or it spells none and is answered ILLEGAL_COMMAND (30 R81). -/
theorem perform_cases (cw : Word) (s : State) :
    perform cw s = .next (s.respond .illegalCommand 0) ∨ ∃ i, decode cw = .ok i ∧ perform cw s = exec i s := by
  cases h : decode cw with
  | error _ => exact .inl (by simp [perform, h])
  | ok i => exact .inr ⟨i, rfl, perform_of_decode s h⟩

/-- A command changes nothing of its environment (10 R36). -/
theorem exec_environment {i : Instr} {s t : State} (h : exec i s = .next t) : s.SameEnvironment t := by
  rcases exec_shape i s with hf | ⟨st, v, r, m, hn, -⟩
  · rw [hf] at h; cases h
  · rw [hn] at h; cases h; simp [State.SameEnvironment]

theorem perform_environment {cw : Word} {s t : State} (h : perform cw s = .next t) : s.SameEnvironment t := by
  rcases perform_cases cw s with hn | ⟨i, -, hi⟩
  · rw [hn] at h; cases h; simp [State.SameEnvironment]
  · exact exec_environment (hi ▸ h)

/-! ### The bound window stays inside the storage space -/

/-- The part of the invariant that keeps every access inside the storage space: valid parameters and 10 R38. -/
abbrev State.Shaped (s : State) : Prop := s.cfg.Valid ∧ s.regs.ShapedWhileBound s.cfg

theorem State.Inv.shaped {s : State} (h : s.Inv) : s.Shaped := by
  obtain ⟨hcfg, ⟨-, hshape, -, -⟩, -, -⟩ := h
  exact ⟨hcfg, hshape⟩

theorem narrow_toNat_le (w n : Nat) : (narrow w n).toNat ≤ n := by
  simp only [narrow, BitVec.toNat_ofNat]
  exact (Nat.mod_le _ _).trans (Nat.mod_le _ _)

/-- The index unit answers an index below CAP (40 R97), whatever the mode. -/
theorem next_lt_cap {r : Regs} (hcap : 1 ≤ r.cap.toNat) (n : Nat) : r.next n < r.cap.toNat := by
  unfold Regs.next
  split
  · have : (n + 1) &&& (r.cap.toNat - 1) ≤ r.cap.toNat - 1 := Nat.and_le_right
    omega
  · exact Nat.mod_lt _ hcap

theorem narrow_next_lt_cap {r : Regs} (hcap : 1 ≤ r.cap.toNat) (w n : Nat) :
    (narrow w (r.next n)).toNat < r.cap.toNat :=
  (narrow_toNat_le w _).trans_lt (next_lt_cap hcap n)

theorem capValid_iff (c : Config) (cap : Nat) (mode : IndexMode) :
    capValid c cap mode = true ↔ 1 ≤ cap ∧ cap ≤ c.capMax ∧ (mode = .mask → pow2 cap = true) := by
  cases mode <;> simp [capValid]

/-- An INIT answered OK binds a window inside the storage space. -/
theorem boundTo_shaped {c : Config} {r : Regs} {cap : Nat} {pol : Policy} {mode : IndexMode} (hc : c.Valid)
    (hcap : capValid c cap mode = true) (hstore : storageValid c r.cfgBase.toNat cap = true) :
    (r.boundTo c pol mode cap).ShapedWhileBound c := by
  intro _
  obtain ⟨hpos, hmax, hpow⟩ := (capValid_iff c cap mode).1 hcap
  have hnum : (BitVec.ofNat 24 cap).toNat = cap := by
    simp only [BitVec.toNat_ofNat]
    exact Nat.mod_eq_of_lt (by have := hc.2.1; omega)
  have hwin : r.cfgBase.toNat + cap ≤ 2 ^ c.addrW := by simpa [storageValid] using hstore
  have hbase := narrow_toNat_le c.addrW r.cfgBase.toNat
  simp only [boundTo_cap, boundTo_base, boundTo_mode, boundTo_ridx, boundTo_widx, hnum]
  exact ⟨hpos, hmax, hpow, by omega, hpos, hpos⟩

/-- The read index after a WRITE is the one before or the one after that (42 R125). -/
theorem afterWrite_ridx (c : Config) (r : Regs) :
    (r.afterWrite c).ridx = r.ridx ∨ (r.afterWrite c).ridx = narrow c.idxW (r.next r.ridx.toNat) := by
  cases hp : r.pol with
  | reject => exact .inl (by simp [afterWrite_reject c r hp])
  | overwrite =>
    cases hf : r.fullf with
    | false => exact .inl (by simp [afterWrite_overwrite_free c r hp hf])
    | true => exact .inr (by simp [afterWrite_overwrite_full c r hp hf])

@[simp] theorem afterWrite_widx (c : Config) (r : Regs) :
    (r.afterWrite c).widx = narrow c.idxW (r.next r.widx.toNat) := by
  cases hp : r.pol with
  | reject => simp [afterWrite_reject c r hp]
  | overwrite =>
    cases hf : r.fullf with
    | false => simp [afterWrite_overwrite_free c r hp hf]
    | true => simp [afterWrite_overwrite_full c r hp hf]

theorem afterWrite_shaped {c : Config} {r : Regs} (h : r.ShapedWhileBound c) :
    (r.afterWrite c).ShapedWhileBound c := by
  intro hl
  obtain ⟨hpos, hmax, hpow, hwin, hr, -⟩ := h (by simpa using hl)
  have hridx : (r.afterWrite c).ridx.toNat < r.cap.toNat := by
    rcases afterWrite_ridx c r with e | e <;> rw [e]
    · exact hr
    · exact narrow_next_lt_cap hpos _ _
  simp only [afterWrite_cap, afterWrite_base, afterWrite_mode, afterWrite_widx]
  exact ⟨hpos, hmax, hpow, hwin, hridx, narrow_next_lt_cap hpos _ _⟩

theorem afterRead_shaped {c : Config} {r : Regs} (h : r.ShapedWhileBound c) : (r.afterRead c).ShapedWhileBound c := by
  intro hl
  obtain ⟨hpos, hmax, hpow, hwin, -, hw⟩ := h hl
  exact ⟨hpos, hmax, hpow, hwin, narrow_next_lt_cap hpos _ _, hw⟩

theorem emptied_shaped {c : Config} {r : Regs} (h : r.ShapedWhileBound c) : r.emptied.ShapedWhileBound c := by
  intro hl
  obtain ⟨hpos, hmax, hpow, hwin, -, -⟩ := h hl
  exact ⟨hpos, hmax, hpow, hwin, hpos, hpos⟩

theorem exec_keeps_shaped {i : Instr} {s t : State} (h : exec i s = .next t) (hs : s.Shaped) : t.Shaped := by
  obtain ⟨hc, hr⟩ := hs
  have hp := h ▸ exec_performs i s
  cases hp with
  | refused | queried | nothingToRelease | setbase => exact ⟨hc, hr⟩
  | initRefused => exact ⟨hc, nofun⟩
  | initBound pol mode cap _ hcap hstore => exact ⟨hc, boundTo_shaped hc hcap hstore⟩
  | released => exact ⟨hc, nofun⟩
  | emptied => exact ⟨hc, emptied_shaped hr⟩
  | stored => exact ⟨hc, afterWrite_shaped hr⟩
  | loaded => exact ⟨hc, afterRead_shaped hr⟩

/-- The slots at both indices of a bound window lie in the storage space (10 R38, 20 R54). -/
theorem State.Shaped.addrs_lt {s : State} (hs : s.Shaped) (hl : s.regs.lifecycle = .bound) :
    s.regs.writeAddr < 2 ^ s.cfg.addrW ∧ s.regs.readAddr < 2 ^ s.cfg.addrW := by
  obtain ⟨-, -, -, hwin, hr, hw⟩ := hs.2 hl
  simp only [Regs.writeAddr, Regs.readAddr, Regs.slotAddr]
  omega

/-- Where the bound window lies in the storage space, every command is answered. -/
theorem exec_answers {s : State} (i : Instr) (hs : s.Shaped) : ∃ t, exec i s = .next t := by
  have hp := exec_performs i s
  generalize exec i s = o at hp
  cases hp with
  | storeOutside _ hl ha => exact absurd (hs.addrs_lt hl).1 ha
  | loadOutside hl ha => exact absurd (hs.addrs_lt hl).2 ha
  | _ => exact ⟨_, rfl⟩

theorem perform_answers {s : State} (cw : Word) (hs : s.Shaped) : ∃ t, perform cw s = .next t := by
  rcases perform_cases cw s with hn | ⟨i, -, hi⟩
  · exact ⟨_, hn⟩
  · exact hi ▸ exec_answers i hs

theorem perform_keeps_shaped {cw : Word} {s t : State} (h : perform cw s = .next t) (hs : s.Shaped) : t.Shaped := by
  rcases perform_cases cw s with hn | ⟨i, -, hi⟩
  · rw [hn] at h; cases h; exact hs
  · exact exec_keeps_shaped (hi ▸ h) hs

end Sys2Proof.Machine
end

section
/-! SUPPORT. The pending commands and the moves that take them: what `step` is at each of them, which port ARB takes, and how
many ports are left pending. Then the statements of the scope (00). -/
namespace Sys2Proof.Machine

/-! ### The pending ports -/

theorem mem_ports (sl : Slots) (p : Port) : p ∈ sl.ports ↔ (sl.get p).isSome = true := by
  cases p <;> simp [Slots.ports]

theorem ports_nodup (sl : Slots) : sl.ports.Nodup := List.Nodup.filter _ (by decide)

/-- Taking the command of a port leaves the other ports pending. -/
theorem ports_set_none (sl : Slots) (p : Port) : (sl.set p none).ports = sl.ports.erase p := by
  rw [(ports_nodup sl).erase_eq_filter]
  simp only [Slots.ports, List.filter_filter]
  refine List.filter_congr fun q _ => ?_
  by_cases h : q = p
  · simp [h]
  · simp [h, set_get_ne]

theorem length_ports_le (sl : Slots) : sl.ports.length ≤ 3 := List.length_filter_le _ _

theorem length_ports_set_none {sl : Slots} {p : Port} (h : p ∈ sl.ports) :
    (sl.set p none).ports.length = sl.ports.length - 1 := by
  rw [ports_set_none, List.length_erase_of_mem h]

theorem ports_eq_nil (sl : Slots) : sl.ports = [] ↔ sl = Slots.none := by
  constructor
  · intro h
    refine slots_ext _ _ fun p => ?_
    have hp : p ∉ sl.ports := by simp [h]
    simpa [mem_ports] using hp
  · rintro rfl
    rfl

/-! ### The moves that take a pending command -/

/-- With some command pending, ARB takes one of the pending ports, whatever its free choice. -/
theorem arbitrate_some {s : State} (h : s.pending ≠ Slots.none) : ∃ p ∈ s.pending.ports, s.arbitrate = some p := by
  unfold State.arbitrate
  split
  case h_1 hp => exact absurd ((ports_eq_nil _).1 hp) h
  case h_2 p hp => exact ⟨p, by simp [hp], rfl⟩
  case h_3 p q ps hp =>
    have hi : Config.arb s.turn % (ps.length + 2) < (p :: q :: ps).length := Nat.mod_lt _ (by simp)
    exact ⟨_, by rw [hp]; exact List.getElem_mem hi, List.getElem?_eq_getElem hi⟩

theorem serve_some {s : State} {port : Port} {cw : Word} (rest : List Move) (h : s.pending.get port = some cw) :
    serve port rest s = perform cw (s.take port rest) := by
  simp [serve, h]

theorem step_serve {s : State} {port : Port} {rest : List Move} (h : s.script = .serve port :: rest) :
    step s = serve port rest s := by
  simp [step, h]

theorem step_por {s : State} {rest : List Move} (h : s.script = .por :: rest) :
    step s = .next { s.powerOn with script := rest } := by
  simp [step, h, assertPor]

/-- With no move and nothing pending the block idles (log entry 6). -/
theorem step_idle {s : State} (hscript : s.script = []) (h : s.pending = Slots.none) : step s = .next s := by
  simp [step, hscript, serveAny, arbitrate_none h]

/-- With no move left and some command pending, the step performs the word of a pending port (log entry 3). -/
theorem step_serves_pending {s : State} (hscript : s.script = []) (h : s.pending ≠ Slots.none) :
    ∃ (port : Port) (cw : Word), s.pending.get port = some cw ∧
      step s = perform cw (State.take port [] { s with turn := s.turn + 1 }) := by
  obtain ⟨port, hmem, harb⟩ := arbitrate_some h
  obtain ⟨cw, hcw⟩ := Option.isSome_iff_exists.1 ((mem_ports _ _).1 hmem)
  have hstep : step s = serve port [] { s with turn := s.turn + 1 } := by simp [step, hscript, serveAny, harb]
  exact ⟨port, cw, hcw, hstep.trans (serve_some [] hcw)⟩

/-! ### Progress -/

/-- No move is left, the bound window is in the storage space, and at most `n` ports have a pending command. -/
def State.Draining (n : Nat) (s : State) : Prop := s.Shaped ∧ s.script = [] ∧ s.pending.ports.length ≤ n

theorem State.Draining.pending_none {s : State} (h : s.Draining 0) : s.pending = Slots.none := by
  obtain ⟨-, -, hlen⟩ := h
  exact (ports_eq_nil _).1 (List.length_eq_zero_iff.1 (Nat.le_zero.1 hlen))

/-- Each step of an empty script leaves one pending command fewer. -/
theorem State.Draining.step {n : Nat} {s : State} (h : s.Draining (n + 1)) :
    ∃ t, Machine.step s = .next t ∧ t.Draining n := by
  obtain ⟨hs, hscript, hlen⟩ := h
  by_cases hp : s.pending = Slots.none
  · exact ⟨s, step_idle hscript hp, hs, hscript, by simp [(ports_eq_nil _).2 hp]⟩
  · obtain ⟨port, cw, hcw, hstep⟩ := step_serves_pending hscript hp
    have htaken : (State.take port [] { s with turn := s.turn + 1 }).Shaped := hs
    obtain ⟨t, ht⟩ := perform_answers cw htaken
    obtain ⟨-, hpending, hrest, -⟩ := perform_environment ht
    have hcount := length_ports_set_none ((mem_ports s.pending port).2 (by simp [hcw]))
    refine ⟨t, hstep.trans ht, perform_keeps_shaped ht htaken, hrest, ?_⟩
    rw [hpending, take_pending, hcount]
    omega

/-! ### The state after POR -/

theorem por_inv (c : Config) : Regs.por.Inv c := ⟨fun _ => by simp, nofun, nofun, nofun⟩

theorem por_fitsWidths (c : Config) : Regs.por.FitsWidths c := by
  simp [Regs.FitsWidths]

theorem resetWith_launch {c : Config} (h : c.Valid) : (State.resetWith c).Launch :=
  ⟨⟨h, por_inv c, por_fitsWidths c, wf_nil, nofun⟩, rfl, rfl, rfl, rfl⟩

/-- POR starts a run at a launch state (93 I17): it needs of the state before only its parameters and its storage. -/
theorem powerOn_launch {s : State} (rest : List Move) (h : s.Inv) :
    State.Launch { s.powerOn with script := rest } := by
  obtain ⟨hcfg, -, -, hstore⟩ := h
  exact ⟨⟨hcfg, por_inv _, por_fitsWidths _, hstore⟩, rfl, rfl, rfl, rfl⟩

/-! ### The statements -/

/-- Settles O11: ARB's choice is an index below the number of pending ports, so it is some pending port. -/
theorem emptyScriptServesAPendingCommand : Obligations.EmptyScriptServesAPendingCommand :=
  fun _ hscript hp => step_serves_pending hscript hp

/-- Settles O13: at most three ports are pending, and each step takes the command of one of them and is answered. -/
theorem pendingCommandsComplete : Obligations.PendingCommandsComplete := by
  intro s hinv hscript
  have h0 : s.Draining 3 := ⟨hinv.shaped, hscript, length_ports_le _⟩
  obtain ⟨t1, h1, hd1⟩ := h0.step
  obtain ⟨t2, h2, hd2⟩ := hd1.step
  obtain ⟨t3, h3, hd3⟩ := hd2.step
  exact ⟨t1, t2, t3, h1, h2, h3, hd3.pending_none⟩

/-- Settles O10: the step serves the port, its word is performed, and a word that decodes is its command. -/
theorem stepPerformsTheDecodedCommand : Obligations.StepPerformsTheDecodedCommand := by
  intro s port rest cw i hscript hcw hi
  have hstep : step s = exec i (s.take port rest) := by
    rw [step_serve hscript, serve_some rest hcw, perform_of_decode _ hi]
  exact ⟨hstep, rfl, rfl, set_get _ _ _, fun q hq => set_get_ne _ _ _ _ hq, rfl, rfl, rfl, rfl, rfl, rfl, rfl, rfl⟩

/-- Settles O57: the POR registers meet the invariants in every configuration, and POR keeps parameters and storage. -/
theorem resetStateIsALaunchState : Obligations.ResetStateIsALaunchState := by
  refine ⟨fun c hc => resetWith_launch hc, rfl, resetWith_launch (by decide), ?_⟩
  intro s t rest hinv hscript hstep
  rw [step_por hscript] at hstep
  cases hstep
  exact ⟨powerOn_launch rest hinv, rfl, s.record, rfl, rfl, rfl, rfl, rfl, rfl, rfl, rfl⟩

end Sys2Proof.Machine
end

section
/-! SUPPORT. What one step can do, said once with the move it makes; what each command leaves unchanged (10 R36); and that every
step keeps the invariants (10 R37 to R40). Then the statements of the architectural state (10). -/
namespace Sys2Proof.Machine

/-! ### What one step can do -/

/-- The ways a step takes the command pending at `port`, with the state in which that command is then performed. -/
inductive State.Takes (s : State) (port : Port) : State → Prop
  | served (rest : List Move) (hscript : s.script = .serve port :: rest) : s.Takes port (s.take port rest)
  | beforeIssue (cw : Word) (rest : List Move) (hscript : s.script = .issue port cw :: rest) :
    s.Takes port (s.take port s.script)
  | drained (hscript : s.script = []) : s.Takes port (State.take port [] { s with turn := s.turn + 1 })

/-- What a step from `s` can lead to, one case per move of 70 R190. -/
inductive Steps (s : State) : State → Prop
  | idled (hscript : s.script = []) (hpending : s.pending = Slots.none) : Steps s s
  | accepted (port : Port) (cw : Word) (rest : List Move) (hscript : s.script = .issue port cw :: rest)
    (hfree : s.pending.get port = none) :
    Steps s { s with pending := s.pending.set port (some cw), script := rest }
  | nothingToServe (port : Port) (rest : List Move) (hscript : s.script = .serve port :: rest)
    (hfree : s.pending.get port = none) : Steps s { s with script := rest }
  | performed (port : Port) (cw : Word) (taken t : State) (hcw : s.pending.get port = some cw)
    (htaken : s.Takes port taken) (hperform : perform cw taken = .next t) : Steps s t
  | hostRead (a : Nat) (rest : List Move) (hscript : s.script = .hostRead a :: rest) (ha : a < 2 ^ s.cfg.addrW)
    (hw : s.regs.inWindow a = false) :
    Steps s { s with script := rest, hostReads := (a, Memory.byteAt s.storage a) :: s.hostReads }
  | hostWrote (a : Nat) (v : Byte) (rest : List Move) (hscript : s.script = .hostWrite a v :: rest)
    (ha : a < 2 ^ s.cfg.addrW) (hw : s.regs.inWindow a = false) : Steps s { s.putByte a v with script := rest }
  | sampled (rest : List Move) (hscript : s.script = .sample :: rest) :
    Steps s { s with script := rest, samples := s.regs.outputs :: s.samples }
  | por (rest : List Move) (hscript : s.script = .por :: rest) : Steps s { s.powerOn with script := rest }

theorem step_issue {s : State} {port : Port} {cw : Word} {rest : List Move} (h : s.script = .issue port cw :: rest) :
    step s = issue port cw rest s := by
  simp [step, h]

theorem step_sample {s : State} {rest : List Move} (h : s.script = .sample :: rest) :
    step s = .next { s with script := rest, samples := s.regs.outputs :: s.samples } := by
  simp [step, h, sampleOutputs]

theorem issue_free {s : State} {port : Port} (cw : Word) (rest : List Move) (h : s.pending.get port = none) :
    issue port cw rest s = .next { s with pending := s.pending.set port (some cw), script := rest } := by
  simp [issue, h]

/-- At a busy port the command pending there is performed and the agent waits (log entry 4). -/
theorem issue_busy {s : State} {port : Port} {old : Word} (cw : Word) (rest : List Move)
    (h : s.pending.get port = some old) : issue port cw rest s = perform old (s.take port s.script) := by
  simp [issue, h, serve_some s.script h]

theorem serve_free {s : State} {port : Port} (rest : List Move) (h : s.pending.get port = none) :
    serve port rest s = .next { s with script := rest } := by
  simp [serve, h]

/-- A host access that goes on is inside the storage space and outside the bound window (20 R50, R55). -/
theorem hostAccess_next {a : Nat} {s t : State} {k : Host.Outcome State Fault Refusal} (h : hostAccess a s k = .next t) :
    k = .next t ∧ a < 2 ^ s.cfg.addrW ∧ s.regs.inWindow a = false := by
  unfold hostAccess at h
  split at h
  · cases h
  · split at h
    · cases h
    · exact ⟨h, by simpa [State.hasAddress] using ‹¬ (!s.hasAddress a) = true›,
        by simpa using ‹¬ s.regs.inWindow a = true›⟩

/-- Every step that goes on is one of the moves of `Steps`. -/
theorem step_steps {s t : State} (h : step s = .next t) : Steps s t := by
  have hstep := h
  unfold step at h
  split at h
  case h_1 hscript =>
    by_cases hp : s.pending = Slots.none
    · rw [serveAny, arbitrate_none hp] at h
      cases h
      exact .idled hscript hp
    · obtain ⟨port, cw, hcw, hserves⟩ := step_serves_pending hscript hp
      exact .performed port cw _ t hcw (.drained hscript) (hserves ▸ hstep)
  case h_2 port cw rest hscript =>
    cases hp : s.pending.get port with
    | none =>
      rw [issue_free cw rest hp] at h
      cases h
      exact .accepted port cw rest hscript hp
    | some old =>
      rw [issue_busy cw rest hp] at h
      exact .performed port old _ t hp (.beforeIssue cw rest hscript) h
  case h_3 port rest hscript =>
    cases hp : s.pending.get port with
    | none =>
      rw [serve_free rest hp] at h
      cases h
      exact .nothingToServe port rest hscript hp
    | some cw =>
      rw [serve_some rest hp] at h
      exact .performed port cw _ t hp (.served rest hscript) h
  case h_4 a rest hscript =>
    obtain ⟨hk, ha, hw⟩ := hostAccess_next h
    cases hk
    exact .hostRead a rest hscript ha hw
  case h_5 a v rest hscript =>
    obtain ⟨hk, ha, hw⟩ := hostAccess_next h
    cases hk
    exact .hostWrote a v rest hscript ha hw
  case h_6 rest hscript =>
    cases h
    exact .sampled rest hscript
  case h_7 rest hscript =>
    cases h
    exact .por rest hscript

/-- Taking a pending command leaves the registers, the storage and the configuration. -/
theorem State.Takes.keeps {s u : State} {port : Port} (h : s.Takes port u) :
    u.cfg = s.cfg ∧ u.regs = s.regs ∧ u.storage = s.storage ∧ u.earlier = s.earlier ∧ u.issuer = port := by
  cases h <;> exact ⟨rfl, rfl, rfl, rfl, rfl⟩

/-! ### What a command leaves unchanged -/

theorem exec_illegal {i : Instr} {s : State} (h : i.legalAt s.issuer = false) :
    exec i s = .next (s.respond .illegalCommand 0) := by
  cases i <;> exact whenLegal_illegal _ h

theorem exec_responds {i : Instr} {s t : State} (h : exec i s = .next t) : ∃ r, t.responses = r :: s.responses := by
  rcases exec_shape i s with hf | ⟨st, v, r, m, hn, -⟩
  · rw [hf] at h; cases h
  · rw [hn] at h; cases h; exact ⟨_, rfl⟩

/-- No command but WRITE writes storage (20 R56). -/
theorem exec_keeps_storage {i : Instr} {s t : State} (h : exec i s = .next t) (hi : ∀ d, i ≠ .write d) :
    t.storage = s.storage := by
  rcases exec_shape i s with hf | ⟨st, v, r, m, hn, hm⟩
  · rw [hf] at h; cases h
  · rw [hn] at h; cases h
    rcases hm with rfl | ⟨d, hd, -⟩
    · rfl
    · exact absurd hd (hi d)

theorem exec_setbase_regs {s t : State} {base : Nat} (h : exec (.setbase base) s = .next t) :
    t.regs = { s.regs with cfgBase := t.regs.cfgBase } := by
  cases h ▸ exec_performs (.setbase base) s with
  | refused => rfl
  | queried _ _ hi => simp at hi
  | setbase => rfl

theorem exec_reset_regs {s t : State} (h : exec .reset s = .next t) :
    t.regs = { s.regs with ridx := t.regs.ridx, widx := t.regs.widx, fullf := t.regs.fullf } := by
  cases h ▸ exec_performs .reset s with
  | refused => rfl
  | queried _ _ hi => simp at hi
  | emptied => rfl

theorem exec_read_regs {s t : State} (h : exec .read s = .next t) :
    t.regs = { s.regs with ridx := t.regs.ridx, fullf := t.regs.fullf } := by
  cases h ▸ exec_performs .read s with
  | refused => rfl
  | queried _ _ hi => simp at hi
  | loaded => rfl

/-- WRITE leaves registers and storage, or has the register effect of a stored byte and writes the byte at `BASE + WIDX`. -/
theorem exec_write_cases {s t : State} {d : Nat} (h : exec (.write d) s = .next t) :
    (t.regs = s.regs ∧ t.storage = s.storage) ∨
    (t.regs = s.regs.afterWrite s.cfg ∧ t.storage = Memory.put s.storage s.regs.writeAddr (BitVec.ofNat 8 d)) := by
  cases h ▸ exec_performs (.write d) s with
  | refused => exact .inl ⟨rfl, rfl⟩
  | queried _ _ hi => simp at hi
  | stored => exact .inr ⟨rfl, rfl⟩

/-- Only SETBASE at port K loads CFG_BASE (10 R28, 30 R79). -/
theorem exec_cfgBase {i : Instr} {s t : State} (h : exec i s = .next t) :
    t.regs.cfgBase = s.regs.cfgBase ∨
    ∃ base, i = .setbase base ∧ s.issuer = .K ∧ t.regs.cfgBase = BitVec.ofNat 24 base := by
  cases hleg : i.legalAt s.issuer with
  | false =>
    rw [exec_illegal hleg] at h
    cases h
    exact .inl rfl
  | true =>
    cases h ▸ exec_performs i s with
    | setbase base => exact .inr ⟨base, rfl, by simpa [Instr.legalAt] using hleg, rfl⟩
    | stored => exact .inl (afterWrite_cfgBase _ _)
    | _ => exact .inl rfl

/-- After a stored byte only WIDX, RIDX and FULLF may differ (42 R125). -/
theorem afterWrite_frame (c : Config) (r : Regs) :
    r.afterWrite c = { r with widx := (r.afterWrite c).widx, ridx := (r.afterWrite c).ridx,
                              fullf := (r.afterWrite c).fullf } := by
  obtain ⟨_, _, _, _, p, _, _, _, f⟩ := r; cases p <;> cases f <;> rfl

/-- RIDX advances only under OVERWRITE on a full buffer (42 R125). -/
theorem afterWrite_ridx_kept (c : Config) {r : Regs} (h : r.pol = .reject ∨ r.fullf = false) :
    (r.afterWrite c).ridx = r.ridx := by
  cases hp : r.pol with
  | reject => simp [afterWrite_reject c r hp]
  | overwrite => simp [afterWrite_overwrite_free c r hp (by simpa [hp] using h)]

theorem afterWrite_fullf_reject (c : Config) {r : Regs} (h : r.pol = .reject) : (r.afterWrite c).fullf = r.fullf := by
  simp [afterWrite_reject c r h]

/-! ### The decoder's operand of SETBASE -/

theorem field_lt (cw : Word) (lo len : Nat) : field cw lo len < 2 ^ len := BitVec.isLt _

/-- One row of the decoder: what is read is the row's own command, or what the rows after it read. -/
theorem wellFormed_of_ite {b : Prop} [Decidable b] {i j : Instr} {later : Except Reject Instr}
    (h : (if b then .ok j else later) = .ok i) (hj : j.WellFormed) (hlater : later = .ok i → i.WellFormed) :
    i.WellFormed := by
  split at h
  · cases h; exact hj
  · exact hlater h

/-- What the decoder reads has every operand in the range of its field (30 R84). -/
theorem decode_wellFormed {cw : Word} {i : Instr} (h : decode cw = .ok i) : i.WellFormed := by
  unfold decode at h
  refine wellFormed_of_ite h (decide_eq_true (field_lt cw 0 24)) fun h => ?_
  refine wellFormed_of_ite h (decide_eq_true (field_lt cw 0 24)) fun h => ?_
  refine wellFormed_of_ite h rfl fun h => wellFormed_of_ite h rfl fun h => ?_
  refine wellFormed_of_ite h (decide_eq_true (field_lt cw 0 8)) fun h => ?_
  refine wellFormed_of_ite h rfl fun h => wellFormed_of_ite h rfl fun h => wellFormed_of_ite h rfl fun h => ?_
  exact wellFormed_of_ite h rfl fun h => wellFormed_of_ite h rfl nofun

/-! ### The invariants, register by register -/

/-- The full flag of 10 R39 and R40 without the bound on the size: set only under OVERWRITE, at equal indices. -/
def Regs.FlagAtEqualIndices (r : Regs) : Prop := r.fullf = true → r.pol = .overwrite ∧ r.ridx = r.widx

/-- Indices below CAP are less than CAP apart. -/
theorem dist_lt_cap {r : Regs} {w i : Nat} (hw : w < r.cap.toNat) : r.dist w i < r.cap.toNat := by
  unfold Regs.dist
  split <;> omega

/-- 10 R37 to R40 without the sizes: with the indices below CAP, their bounds follow. -/
theorem regs_inv_iff (c : Config) (r : Regs) :
    r.Inv c ↔ r.ClearWhileUnbound ∧ r.ShapedWhileBound c ∧ (r.lifecycle = .bound → r.FlagAtEqualIndices) := by
  constructor
  · rintro ⟨hclear, hshape, hrej, hover⟩
    refine ⟨hclear, hshape, fun hl hf => ?_⟩
    cases hp : r.pol with
    | reject => simp [(hrej hl hp).1] at hf
    | overwrite => exact ⟨rfl, (hover hl hp).1 hf⟩
  · rintro ⟨hclear, hshape, hflag⟩
    refine ⟨hclear, hshape, fun hl hp => ?_, fun hl hp => ⟨fun hf => (hflag hl hf).2, ?_⟩⟩
    · obtain ⟨-, -, -, -, -, hw⟩ := hshape hl
      have hd := dist_lt_cap (i := r.ridx.toNat) hw
      refine ⟨by simpa [hp] using fun hf => (hflag hl hf).1, ?_⟩
      simp only [Regs.size, hp]
      omega
    · obtain ⟨-, -, -, -, -, hw⟩ := hshape hl
      have hd := dist_lt_cap (i := r.ridx.toNat) hw
      simp only [Regs.size, hp]
      split <;> omega

/-! ### Each register update keeps the invariants -/

theorem narrow_toNat_lt (w n : Nat) : (narrow w n).toNat < 2 ^ w := by
  simp only [narrow, BitVec.toNat_ofNat]
  exact (Nat.mod_le _ _).trans_lt (Nat.mod_lt _ (Nat.two_pow_pos w))

/-- The registers' part of the invariant: the rules of each lifecycle state and the widths. -/
abbrev Regs.Ok (c : Config) (r : Regs) : Prop := r.Inv c ∧ r.FitsWidths c

theorem por_ok (c : Config) : Regs.por.Ok c := ⟨por_inv c, por_fitsWidths c⟩

/-- CFG_BASE is free: no invariant speaks of it. -/
theorem withCfgBase_ok {c : Config} {r : Regs} (b : Reg) (h : r.Ok c) : ({ r with cfgBase := b } : Regs).Ok c := h

/-- An unbound block is clear, so it meets the rules of FAULTED too (10 R37). -/
theorem enterFault_ok {c : Config} {r : Regs} (hl : r.lifecycle = .unbound) (h : r.Ok c) :
    ({ r with lifecycle := .faulted } : Regs).Ok c := by
  obtain ⟨⟨hclear, -, -, -⟩, hfits⟩ := h
  exact ⟨⟨fun _ => hclear (by simp [hl]), nofun, nofun, nofun⟩, hfits⟩

theorem released_ok (c : Config) (r : Regs) : r.released.Ok c := withCfgBase_ok r.cfgBase (por_ok c)

theorem boundTo_ok {c : Config} {r : Regs} {cap : Nat} {pol : Policy} {mode : IndexMode} (hc : c.Valid)
    (hcap : capValid c cap mode = true) (hstore : storageValid c r.cfgBase.toNat cap = true) :
    (r.boundTo c pol mode cap).Ok c :=
  ⟨(regs_inv_iff _ _).2 ⟨fun hl => absurd rfl hl, boundTo_shaped hc hcap hstore, fun _ => nofun⟩,
   narrow_toNat_lt _ _, Nat.two_pow_pos _, Nat.two_pow_pos _⟩

theorem emptied_ok {c : Config} {r : Regs} (hl : r.lifecycle = .bound) (h : r.Ok c) : r.emptied.Ok c := by
  obtain ⟨⟨-, hshape, -, -⟩, hbase, -, -⟩ := h
  exact ⟨(regs_inv_iff _ _).2 ⟨fun hn => absurd hl hn, emptied_shaped hshape, fun _ => nofun⟩,
    hbase, Nat.two_pow_pos _, Nat.two_pow_pos _⟩

/-- A WRITE sets FULLF only under OVERWRITE, where the updated indices meet (40 R103). -/
theorem afterWrite_flag (c : Config) {r : Regs} (h : r.FlagAtEqualIndices) : (r.afterWrite c).FlagAtEqualIndices := by
  intro hf
  cases hp : r.pol with
  | reject =>
    rw [afterWrite_fullf_reject c hp] at hf
    exact absurd (h hf).1 (by simp [hp])
  | overwrite =>
    refine ⟨by simp [hp], BitVec.eq_of_toNat_eq ?_⟩
    cases hfull : r.fullf with
    | false =>
      rw [afterWrite_overwrite_free c r hp hfull] at hf ⊢
      exact (beq_iff_eq.1 hf).symm
    | true =>
      rw [afterWrite_overwrite_full c r hp hfull] at hf ⊢
      exact (beq_iff_eq.1 hf).symm

theorem afterWrite_ok {c : Config} {r : Regs} (hl : r.lifecycle = .bound) (h : r.Ok c) : (r.afterWrite c).Ok c := by
  obtain ⟨hinv, hbase, hridx, -⟩ := h
  obtain ⟨-, hshape, hflag⟩ := (regs_inv_iff _ _).1 hinv
  refine ⟨(regs_inv_iff _ _).2 ⟨fun hn => absurd (by simpa using hl) hn, afterWrite_shaped hshape,
    fun _ => afterWrite_flag c (hflag hl)⟩, by simpa using hbase, ?_, by simpa using narrow_toNat_lt _ _⟩
  rcases afterWrite_ridx c r with e | e <;> rw [e]
  · exact hridx
  · exact narrow_toNat_lt _ _

theorem afterRead_ok {c : Config} {r : Regs} (hl : r.lifecycle = .bound) (h : r.Ok c) : (r.afterRead c).Ok c := by
  obtain ⟨⟨-, hshape, -, -⟩, hbase, -, hwidx⟩ := h
  exact ⟨(regs_inv_iff _ _).2 ⟨fun hn => absurd hl hn, afterRead_shaped hshape, fun _ => nofun⟩,
    hbase, narrow_toNat_lt _ _, hwidx⟩

/-! ### Every step keeps the invariants -/

theorem State.StorageOk.putByte {s : State} {a : Nat} (v : Byte) (h : s.StorageOk) (ha : a < 2 ^ s.cfg.addrW) :
    (s.putByte a v).StorageOk := by
  refine ⟨wf_put _ a v h.1, fun cell hcell => ?_⟩
  rcases mem_put _ a v cell hcell with rfl | hmem
  · exact ha
  · exact h.2 cell hmem

/-- The invariant speaks of configuration, registers and storage only. -/
theorem State.Inv.of_regs_ok {s t : State} (hs : s.Inv) (hcfg : t.cfg = s.cfg) (hstorage : t.storage = s.storage)
    (hregs : t.regs.Ok s.cfg) : t.Inv := by
  obtain ⟨hc, -, -, hstore⟩ := hs
  obtain ⟨hinv, hfits⟩ := hregs
  unfold State.Inv State.StorageOk
  rw [hcfg, hstorage]
  exact ⟨hc, hinv, hfits, hstore⟩

theorem State.Inv.regs_ok {s : State} (hs : s.Inv) : s.regs.Ok s.cfg := by
  obtain ⟨-, hinv, hfits, -⟩ := hs
  exact ⟨hinv, hfits⟩

theorem State.Inv.putByte {s : State} {a : Nat} (v : Byte) (hs : s.Inv) (ha : a < 2 ^ s.cfg.addrW) :
    (s.putByte a v).Inv := by
  obtain ⟨hc, hinv, hfits, hwf, hcells⟩ := hs
  refine ⟨hc, hinv, hfits, wf_put _ a v hwf, fun cell hcell => ?_⟩
  rcases mem_put _ a v cell hcell with rfl | hmem
  · exact ha
  · exact hcells cell hmem

theorem exec_keeps_inv {i : Instr} {s t : State} (h : exec i s = .next t) (hs : s.Inv) : t.Inv := by
  have hok := hs.regs_ok
  cases h ▸ exec_performs i s with
  | refused | queried | nothingToRelease => exact hs
  | setbase base => exact hs.of_regs_ok rfl rfl (withCfgBase_ok _ hok)
  | initRefused _ _ _ _ _ hl => exact hs.of_regs_ok rfl rfl (enterFault_ok hl hok)
  | initBound _ _ _ _ hcap hwin => exact hs.of_regs_ok rfl rfl (boundTo_ok hs.1 hcap hwin)
  | released => exact hs.of_regs_ok rfl rfl (released_ok _ _)
  | emptied hl => exact hs.of_regs_ok rfl rfl (emptied_ok hl hok)
  | stored d hl _ ha => exact (hs.putByte (BitVec.ofNat 8 d) ha).of_regs_ok rfl rfl (afterWrite_ok hl hok)
  | loaded hl => exact hs.of_regs_ok rfl rfl (afterRead_ok hl hok)

theorem perform_keeps_inv {cw : Word} {s t : State} (h : perform cw s = .next t) (hs : s.Inv) : t.Inv := by
  rcases perform_cases cw s with hn | ⟨i, -, hi⟩
  · rw [hn] at h; cases h; exact hs
  · exact exec_keeps_inv (hi ▸ h) hs

theorem State.Takes.keeps_inv {s u : State} {port : Port} (h : s.Takes port u) (hs : s.Inv) : u.Inv := by
  cases h <;> exact hs

theorem step_keeps_inv {s t : State} (h : step s = .next t) (hs : s.Inv) : t.Inv := by
  cases step_steps h with
  | performed _ _ _ _ _ htaken hperform => exact perform_keeps_inv hperform (htaken.keeps_inv hs)
  | hostWrote a v _ _ ha _ => exact hs.putByte v ha
  | por rest _ => exact (powerOn_launch rest hs).1
  | _ => exact hs

theorem step_cfg {s t : State} (h : step s = .next t) : t.cfg = s.cfg := by
  cases step_steps h with
  | performed _ _ _ _ _ htaken hperform => exact (perform_environment hperform).1.trans htaken.keeps.1
  | _ => rfl

/-- Only POR closes a run's record (93 I17). -/
theorem step_earlier {s t : State} (h : step s = .next t) (hpor : ∀ rest, s.script ≠ .por :: rest) :
    t.earlier = s.earlier := by
  cases step_steps h with
  | performed _ _ _ _ _ htaken hperform =>
    obtain ⟨-, -, -, -, -, -, hearlier, -⟩ := perform_environment hperform
    obtain ⟨-, -, -, htook, -⟩ := htaken.keeps
    exact hearlier.trans htook
  | por rest hscript => exact absurd hscript (hpor rest)
  | _ => rfl

/-! ### The statements -/

/-- Settles O58: every move leaves the registers, stores one byte inside the storage space, powers on, or performs a command, and
each register update of a command keeps the rules of the lifecycle state it leads to. -/
theorem stepKeepsTheInvariants : Obligations.StepKeepsTheInvariants :=
  fun _ _ hs h => ⟨step_keeps_inv h hs, step_cfg h, step_earlier h⟩

/-- Settles O33, by the frame of each command and the shape they share. -/
theorem lifecycleCommandsKeepTheRest : Obligations.LifecycleCommandsKeepTheRest := by
  intro s t i h
  have hcfgBase : (∀ base, i ≠ .setbase base) → t.regs.cfgBase = s.regs.cfgBase := fun hi =>
    (exec_cfgBase h).resolve_right fun ⟨base, hb, _⟩ => hi base hb
  refine ⟨?_, ?_, ?_, ?_, fun hi => ⟨fun a => ?_, exec_environment h, exec_responds h⟩⟩
  · rintro ⟨base, rfl⟩
    exact exec_setbase_regs h
  · rintro ⟨pol, mode, cap, rfl⟩
    exact hcfgBase nofun
  · rintro rfl
    exact hcfgBase nofun
  · rintro rfl
    exact exec_reset_regs h
  · have hwrite : ∀ d, i ≠ .write d := by
      rintro d rfl
      simp at hi
    rw [exec_keeps_storage h hwrite]

/-- Settles O34: a refused WRITE keeps registers and storage; a stored byte has the register effect of 42 R125. -/
theorem writeKeepsTheRest : Obligations.WriteKeepsTheRest := by
  intro s t d h
  rcases exec_write_cases h with ⟨hr, hm⟩ | ⟨hr, hm⟩ <;> rw [hr, hm]
  · exact ⟨rfl, fun _ => rfl, fun _ => rfl, fun _ _ => rfl, exec_environment h, exec_responds h⟩
  · exact ⟨afterWrite_frame _ _, afterWrite_ridx_kept _, afterWrite_fullf_reject _,
      fun a ha => byteAt_put_other _ _ a _ ha, exec_environment h, exec_responds h⟩

/-- Settles O35: a READ that is answered OK advances RIDX and clears FULLF, and no READ writes storage. -/
theorem readKeepsTheRest : Obligations.ReadKeepsTheRest := by
  intro s t h
  have hstorage := exec_keeps_storage h nofun
  exact ⟨exec_read_regs h, fun a => by rw [hstorage], exec_environment h, exec_responds h⟩

/-- Settles O51: of all moves only POR and a performed command write registers, and of all commands only a SETBASE at port K
writes CFG_BASE; its decoded operand fits the register. -/
theorem cfgBaseChangesOnlyBySetbaseOrPor : Obligations.CfgBaseChangesOnlyBySetbaseOrPor := by
  intro s t h hne
  cases step_steps h with
  | performed port cw taken _ hcw htaken hperform =>
    obtain ⟨-, hregs, -, -, hissuer⟩ := htaken.keeps
    rw [← hregs] at hne
    rcases perform_cases cw taken with hn | ⟨i, hi, hexec⟩
    · rw [hn] at hperform
      cases hperform
      exact absurd rfl hne
    · obtain ⟨base, rfl, hK, hbase⟩ := (exec_cfgBase (hexec ▸ hperform)).resolve_left hne
      have hlt : base < 2 ^ 24 := of_decide_eq_true (decode_wellFormed hi)
      refine .inl ⟨base, cw, by rwa [← hK, hissuer], hi, ?_⟩
      rw [hbase, BitVec.toNat_ofNat, Nat.mod_eq_of_lt hlt]
  | por rest hscript => exact .inr ⟨⟨rest, hscript⟩, rfl⟩
  | _ => exact absurd rfl hne

/-- Settles O12: at a free port the word becomes pending; at a busy one the step performs the pending word. -/
theorem portHoldsOnePendingCommand : Obligations.PortHoldsOnePendingCommand := by
  intro s port rest cw hscript
  rw [step_issue hscript]
  constructor
  · intro hfree
    exact ⟨_, issue_free cw rest hfree, set_get _ _ _, fun q hq => set_get_ne _ _ q _ hq, rfl, rfl, rfl, rfl⟩
  · intro old hold
    exact issue_busy cw rest hold

/-- Settles O54: each output is the conjunction of its tests, and a sample move writes the record of samples only. -/
theorem statusOutputsFollowTheRegisters : Obligations.StatusOutputsFollowTheRegisters := by
  intro s
  refine ⟨?_, ?_, ?_, ?_, fun rest hscript => step_sample hscript⟩ <;> simp [Regs.outputs]

/-- Settles O56: an unbound block drives every output low, and a memory that lists no byte reads as its draw. -/
theorem resetStateHasPorValues : Obligations.ResetStateHasPorValues :=
  fun _ => ⟨rfl, none_get, rfl, fun _ => rfl⟩

end Sys2Proof.Machine
end

section
/-! SUPPORT. The bound window and who may touch it: the block stores inside it only, and a host access goes on outside it only.
Then the statements of the memory (20). -/
namespace Sys2Proof.Machine

/-! ### The bound window -/

theorem inWindow_iff (r : Regs) (a : Nat) :
    r.inWindow a = true ↔ r.lifecycle = .bound ∧ r.base.toNat ≤ a ∧ a < r.base.toNat + r.cap.toNat := by
  simp [Regs.inWindow]

theorem inWindow_eq_false_iff (r : Regs) (a : Nat) :
    r.inWindow a = false ↔ ¬ (r.lifecycle = .bound ∧ r.base.toNat ≤ a ∧ a < r.base.toNat + r.cap.toNat) := by
  rw [← inWindow_iff, Bool.not_eq_true]

/-- WIDX is below CAP (10 R38), so a WRITE stores to a byte of the window (20 R54). -/
theorem State.Shaped.writeAddr_inWindow {s : State} (hs : s.Shaped) (hl : s.regs.lifecycle = .bound) :
    s.regs.inWindow s.regs.writeAddr = true := by
  obtain ⟨-, -, -, -, -, hw⟩ := hs.2 hl
  exact (inWindow_iff _ _).2 ⟨hl, Nat.le_add_right _ _, Nat.add_lt_add_left hw _⟩

/-- No command changes a byte outside the bound window: the one byte a command can store is at WRITE's address. -/
theorem exec_keeps_outside_window {i : Instr} {s t : State} {a : Nat} (h : exec i s = .next t) (hs : s.Shaped)
    (ha : s.regs.inWindow a = false) : Memory.byteAt t.storage a = Memory.byteAt s.storage a := by
  cases h ▸ exec_performs i s with
  | stored d hl =>
    have hne : a ≠ s.regs.writeAddr := by
      rintro rfl
      simp [hs.writeAddr_inWindow hl] at ha
    exact byteAt_put_other _ _ a _ hne
  | _ => rfl

/-! ### The host's access -/

theorem step_hostRead {s : State} {a : Nat} {rest : List Move} (h : s.script = .hostRead a :: rest) :
    step s = hostRead a rest s := by
  simp [step, h]

theorem step_hostWrite {s : State} {a : Nat} {v : Byte} {rest : List Move} (h : s.script = .hostWrite a v :: rest) :
    step s = hostWrite a v rest s := by
  simp [step, h]

theorem hostAccess_outside {a : Nat} {s : State} (k) (ha : a < 2 ^ s.cfg.addrW) (hw : s.regs.inWindow a = false) :
    hostAccess a s k = k := by
  simp [hostAccess, State.hasAddress, ha, hw]

theorem hostAccess_window {a : Nat} {s : State} (k) (ha : a < 2 ^ s.cfg.addrW) (hw : s.regs.inWindow a = true) :
    hostAccess a s k = .fault .hostTouchedBoundWindow := by
  simp [hostAccess, State.hasAddress, ha, hw]

/-! ### The statements -/

/-- Settles O52: the only storing command is a WRITE while BOUND, and its address is in the window. -/
theorem blockWritesOnlyInsideTheWindow : Obligations.BlockWritesOnlyInsideTheWindow :=
  fun _ _ _ hs h =>
    ⟨fun a ha => exec_keeps_outside_window h hs.shaped ((inWindow_eq_false_iff _ a).2 ha), exec_keeps_storage h⟩

/-- Settles O53: the check of a host access lets it go on outside the window and stops the run inside it; DEINIT is no WRITE. -/
theorem hostMayTouchStorageOutsideTheWindow : Obligations.HostMayTouchStorageOutsideTheWindow := by
  intro s a v rest ha
  refine ⟨fun hout => ?_, fun hl hlo hhi => ?_, fun t h => exec_keeps_storage h nofun⟩
  · have hw := (inWindow_eq_false_iff _ _).2 hout
    constructor
    · intro hscript
      rw [step_hostRead hscript, hostRead, hostAccess_outside _ ha hw]
    · intro hscript
      rw [step_hostWrite hscript, hostWrite, hostAccess_outside _ ha hw]
      exact ⟨_, rfl, byteAt_put_same _ _ _, fun b hb => byteAt_put_other _ _ b _ hb, rfl⟩
  · have hw := (inWindow_iff _ _).2 ⟨hl, hlo, hhi⟩
    constructor
    · intro hscript
      rw [step_hostRead hscript, hostRead, hostAccess_window _ ha hw]
    · intro hscript
      rw [step_hostWrite hscript, hostWrite, hostAccess_window _ ha hw]

end Sys2Proof.Machine
end

section
/-! SUPPORT. The fields of a command word, the opcode map, and the decoder: a word decodes to a command exactly when it spells the
command's row and holds its operands. Then the statements of the encoding (30) about words. -/
namespace Sys2Proof

/-! ### The operand fields -/

theorem wellFormed_setbase_iff (base : Nat) : (Instr.setbase base).WellFormed ↔ base < 2 ^ 24 := decide_eq_true_iff

theorem wellFormed_init_iff (pol : Policy) (mode : IndexMode) (cap : Nat) :
    (Instr.init pol mode cap).WellFormed ↔ cap < 2 ^ 24 := decide_eq_true_iff

theorem wellFormed_write_iff (data : Nat) : (Instr.write data).WellFormed ↔ data < 2 ^ 8 := decide_eq_true_iff

/-- A number OR'd into a field whose bits are 0 in the header is what the field reads. -/
theorem field_or_ofNat {header : Word} {n len : Nat} (hheader : field header 0 len = 0) (hn : n < 2 ^ len) (hlen : len ≤ 32) :
    field (header ||| BitVec.ofNat 32 n) 0 len = n := by
  have hword : n < 2 ^ 32 := hn.trans_le (Nat.pow_le_pow_right (by decide) hlen)
  have hfield : field (BitVec.ofNat 32 n) 0 len = n := by
    simp only [field, BitVec.extractLsb'_toNat, BitVec.toNat_ofNat, Nat.shiftRight_zero]
    rw [Nat.mod_eq_of_lt hword, Nat.mod_eq_of_lt hn]
  simp only [field] at hheader hfield
  simp only [field, BitVec.extractLsb'_or, BitVec.toNat_or, hheader, hfield, Nat.zero_or]

/-- The bits from 24 up of a word with a 24-bit number OR'd in are the header's. -/
theorem getLsbD_or_ofNat {n i : Nat} (header : Word) (hn : n < 2 ^ 24) (hlo : 24 ≤ i) (hi : i < 32) :
    (header ||| BitVec.ofNat 32 n).getLsbD i = header.getLsbD i := by
  have hbit := Laws.SpellsOwnRow.bit_above hn i hi hlo
  rw [← BitVec.getLsbD_eq_getElem] at hbit
  rw [BitVec.getLsbD_or, hbit, Bool.or_false]

/-- Put back as a word, the low field is the word with its other bits cleared. -/
theorem ofNat_field_low (cw : Word) {len : Nat} (hlen : len ≤ 32) :
    BitVec.ofNat 32 (field cw 0 len) = cw &&& BitVec.ofNat 32 (2 ^ len - 1) := by
  have hpow : 2 ^ len ≤ 2 ^ 32 := Nat.pow_le_pow_right (by decide) hlen
  have hfield : field cw 0 len < 2 ^ len := BitVec.isLt _
  apply BitVec.eq_of_toNat_eq
  rw [BitVec.toNat_and, BitVec.toNat_ofNat, BitVec.toNat_ofNat, Nat.mod_eq_of_lt (hfield.trans_le hpow),
    Nat.mod_eq_of_lt (by omega : 2 ^ len - 1 < 2 ^ 32), Nat.and_two_pow_sub_one_eq_mod, field, BitVec.extractLsb'_toNat,
    Nat.shiftRight_zero]

theorem polField_bit (cw : Word) : (polField cw).bit <<< 27 = cw &&& BitVec.twoPow 32 27 := by
  rw [BitVec.and_twoPow, polField]
  split <;> rfl

theorem modeField_bit (cw : Word) : (modeField cw).bit <<< 26 = cw &&& BitVec.twoPow 32 26 := by
  rw [BitVec.and_twoPow, modeField]
  split <;> rfl

/-- The bits a mask fixes, with the word's bits at all other places, are the word. -/
theorem or_and_eq_self {cw mask fixed free : Word} (h : cw &&& mask = fixed) (hfree : mask ||| free = BitVec.allOnes 32) :
    fixed ||| (cw &&& free) = cw := by
  rw [← h, ← BitVec.and_or_distrib_left, hfree, BitVec.and_allOnes]

/-! ### The opcode map -/

theorem OpRow.spells_iff (row : OpRow) (cw : Word) : row.spells cw = true ↔ cw &&& row.mask = row.fixed := beq_iff_eq

theorem row_mem_table (i : Instr) : i.row ∈ OpRow.table := by cases i <;> simp [Instr.row, OpRow.table]

theorem exists_instr_of_row : ∀ row ∈ OpRow.table, ∃ i : Instr, i.row = row := by
  simp only [OpRow.table, List.forall_mem_cons]
  exact ⟨⟨.setbase 0, rfl⟩, ⟨.init .reject .mask 0, rfl⟩, ⟨.deinit, rfl⟩, ⟨.reset, rfl⟩, ⟨.write 0, rfl⟩, ⟨.read, rfl⟩,
    ⟨.isEmpty, rfl⟩, ⟨.isFull, rfl⟩, ⟨.size, rfl⟩, ⟨.capacity, rfl⟩, nofun⟩

/-- Every mask holds the four bits of the opcode, so a word that spells a row has the row's opcode. -/
theorem opcode_of_spells {row : OpRow} {cw : Word} (hrow : row ∈ OpRow.table) (h : row.spells cw = true) :
    opcode cw = opcode row.fixed := by
  have hmask : ∀ r ∈ OpRow.table, opcode r.mask = BitVec.allOnes 4 := by decide
  rw [← (row.spells_iff cw).1 h, opcode, opcode, BitVec.extractLsb'_and]
  rw [show row.mask.extractLsb' 28 4 = _ from hmask row hrow, BitVec.and_allOnes]

/-- The opcode tells the rows apart (30 R77). -/
theorem row_eq_of_opcode : ∀ row ∈ OpRow.table, ∀ row' ∈ OpRow.table, opcode row.fixed = opcode row'.fixed → row = row' := by
  decide

/-- A word spells at most one row. -/
theorem row_eq_of_spells {row row' : OpRow} {cw : Word} (hrow : row ∈ OpRow.table) (hrow' : row' ∈ OpRow.table)
    (h : row.spells cw = true) (h' : row'.spells cw = true) : row = row' :=
  row_eq_of_opcode row hrow row' hrow' ((opcode_of_spells hrow h).symm.trans (opcode_of_spells hrow' h'))

/-! ### The decoder -/

/-- The command of the same row with the operands a word holds (30 R72 to R76). -/
def Instr.withOperandsOf (cw : Word) : Instr → Instr
  | .setbase _ => .setbase (field cw 0 24)
  | .init _ _ _ => .init (polField cw) (modeField cw) (field cw 0 24)
  | .write _ => .write (field cw 0 8)
  | .deinit => .deinit
  | .reset => .reset
  | .read => .read
  | .isEmpty => .isEmpty
  | .isFull => .isFull
  | .size => .size
  | .capacity => .capacity

@[simp] theorem withOperandsOf_row (cw : Word) (i : Instr) : (i.withOperandsOf cw).row = i.row := by cases i <;> rfl

/-- A word is decoded by the row it spells: the tests of the other rows fail. -/
theorem decode_of_spells {cw : Word} {i : Instr} (h : i.row.spells cw = true) : decode cw = .ok (i.withOperandsOf cw) := by
  have hrow : ∀ row ∈ OpRow.table, row.spells cw = decide (row = i.row) := fun row hrow =>
    Bool.eq_iff_iff.2 ⟨fun hs => decide_eq_true (row_eq_of_spells hrow (row_mem_table i) hs h),
      fun he => of_decide_eq_true he ▸ h⟩
  cases i <;> simp only [Instr.row] at hrow <;> simp +decide [decode, hrow, Instr.withOperandsOf]

/-- What is decoded is the command of a row the word spells, with the word's operands. -/
theorem spells_of_decode {cw : Word} {i : Instr} (h : decode cw = .ok i) :
    i.row.spells cw = true ∧ i.withOperandsOf cw = i := by
  unfold decode at h
  split_ifs at h <;> cases h <;> exact ⟨‹_›, rfl⟩

theorem decode_eq_ok_iff (cw : Word) (i : Instr) :
    decode cw = .ok i ↔ i.row.spells cw = true ∧ i.withOperandsOf cw = i :=
  ⟨spells_of_decode, fun ⟨hs, hi⟩ => hi ▸ decode_of_spells hs⟩

/-! ### The encoder -/

/-- The encoded word of every well-formed command spells its own row. -/
theorem encode_spells {i : Instr} (h : i.WellFormed) : i.row.spells (encode i) = true := by
  cases i with
  | setbase base => exact Laws.SpellsOwnRow.setbase base h
  | init pol mode cap => exact Laws.SpellsOwnRow.init pol mode cap h
  | write data => exact Laws.SpellsOwnRow.write data h
  | deinit => exact Laws.SpellsOwnRow.deinit h
  | reset => exact Laws.SpellsOwnRow.reset h
  | read => exact Laws.SpellsOwnRow.read h
  | isEmpty => exact Laws.SpellsOwnRow.isEmpty h
  | isFull => exact Laws.SpellsOwnRow.isFull h
  | size => exact Laws.SpellsOwnRow.size h
  | capacity => exact Laws.SpellsOwnRow.capacity h

/-- The word of an INIT above its capacity field: the match value, the policy and the mode (30 R73). -/
def initHeader (pol : Policy) (mode : IndexMode) : Word := 0x20000000 ||| pol.bit <<< 27 ||| mode.bit <<< 26

theorem encode_init (pol : Policy) (mode : IndexMode) (cap : Nat) :
    encode (.init pol mode cap) = initHeader pol mode ||| BitVec.ofNat 32 cap := rfl

theorem initHeader_fields (pol : Policy) (mode : IndexMode) :
    polField (initHeader pol mode) = pol ∧ modeField (initHeader pol mode) = mode ∧ field (initHeader pol mode) 0 24 = 0 := by
  cases pol <;> cases mode <;> decide

/-- The encoded word of a well-formed command holds its operands. -/
theorem encode_holds_operands {i : Instr} (h : i.WellFormed) : i.withOperandsOf (encode i) = i := by
  cases i with
  | setbase base =>
    exact congrArg Instr.setbase (field_or_ofNat (by decide) ((wellFormed_setbase_iff base).1 h) (by decide))
  | init pol mode cap =>
    have hcap := (wellFormed_init_iff pol mode cap).1 h
    obtain ⟨hpol, hmode, hzero⟩ := initHeader_fields pol mode
    have hpol' : polField (initHeader pol mode ||| BitVec.ofNat 32 cap) = pol := by
      rwa [polField, getLsbD_or_ofNat _ hcap (by decide) (by decide), ← polField]
    have hmode' : modeField (initHeader pol mode ||| BitVec.ofNat 32 cap) = mode := by
      rwa [modeField, getLsbD_or_ofNat _ hcap (by decide) (by decide), ← modeField]
    rw [encode_init, Instr.withOperandsOf, hpol', hmode', field_or_ofNat hzero hcap (by decide)]
  | write data =>
    exact congrArg Instr.write (field_or_ofNat (by decide) ((wellFormed_write_iff data).1 h) (by decide))
  | deinit | reset | read | isEmpty | isFull | size | capacity => rfl

/-- A word that spells a row is the encoding of the row's command with the word's operands: the mask of the row and its operand
fields make up all 32 bits (30 R77). -/
theorem encode_withOperandsOf {cw : Word} {i : Instr} (h : i.row.spells cw = true) : encode (i.withOperandsOf cw) = cw := by
  have hfixed := (i.row.spells_iff cw).1 h
  have hplain (hmask : i.row.mask = BitVec.allOnes 32) : i.row.fixed = cw := by
    rw [← hfixed, hmask, BitVec.and_allOnes]
  cases i with
  | setbase =>
    simp only [Instr.withOperandsOf, encode, ofNat_field_low cw (by decide : 24 ≤ 32)]
    exact or_and_eq_self hfixed (show OpRow.setbase.mask ||| _ = _ by decide)
  | init =>
    simp only [Instr.withOperandsOf, encode, ofNat_field_low cw (by decide : 24 ≤ 32), polField_bit, modeField_bit,
      BitVec.or_assoc, ← BitVec.and_or_distrib_left]
    exact or_and_eq_self hfixed (show OpRow.init.mask ||| _ = _ by decide)
  | write =>
    simp only [Instr.withOperandsOf, encode, ofNat_field_low cw (by decide : 8 ≤ 32)]
    exact or_and_eq_self hfixed (show OpRow.write.mask ||| _ = _ by decide)
  | deinit | reset | read | isEmpty | isFull | size | capacity => exact hplain (by decide)

/-! ### The statements about words -/

/-- Settles O1: the encoded word spells the command's own row and holds its operands, which is what the decoder reads. -/
theorem encodedCommandDecodesToItself : Obligations.EncodedCommandDecodesToItself :=
  fun i h => (decode_eq_ok_iff _ i).2 ⟨encode_spells h, encode_holds_operands h⟩

/-- Settles O2: a decoded word is its row's fixed bits with the operands that were read. -/
theorem decodedWordEncodesBack : Obligations.DecodedWordEncodesBack := by
  intro cw i h
  obtain ⟨hs, hi⟩ := spells_of_decode h
  exact ⟨Machine.decode_wellFormed h, hi ▸ encode_withOperandsOf hs⟩

end Sys2Proof
end

section
/-! SUPPORT. What performing a word answers: ILLEGAL_COMMAND for a word that spells no command and at a wrong port, one response
word for every command; and SETUP. Then the other statements of the encoding (30). -/
namespace Sys2Proof.Machine

/-! ### Words that spell no command -/

/-- The test of a row agrees with the decoder (30 R77). -/
theorem spells_iff_decode {row : OpRow} (hrow : row ∈ OpRow.table) (cw : Word) :
    row.spells cw = true ↔ ∃ i, decode cw = .ok i ∧ i.row = row := by
  constructor
  · intro hs
    obtain ⟨i, rfl⟩ := exists_instr_of_row row hrow
    exact ⟨_, decode_of_spells hs, withOperandsOf_row cw i⟩
  · rintro ⟨i, hi, rfl⟩
    exact (spells_of_decode hi).1

theorem perform_unspelled {cw : Word} (s : State) (h : ∀ row ∈ OpRow.table, row.spells cw = false) :
    perform cw s = .next (s.respond .illegalCommand 0) := by
  rcases perform_cases cw s with hn | ⟨i, hi, -⟩
  · exact hn
  · exact absurd (spells_of_decode hi).1 (by simp [h _ (row_mem_table i)])

/-- No row has a reserved opcode (30 R78). -/
theorem spells_false_of_reserved_opcode {cw : Word} (h : opcode cw = 0x0#4 ∨ 0xB ≤ (opcode cw).toNat) :
    ∀ row ∈ OpRow.table, row.spells cw = false := by
  have hlegal : ∀ row ∈ OpRow.table, ¬ (opcode row.fixed = 0x0#4 ∨ 0xB ≤ (opcode row.fixed).toNat) := by decide
  exact fun row hrow => Bool.eq_false_iff.2 fun hs => hlegal row hrow (opcode_of_spells hrow hs ▸ h)

/-- A word with a row's opcode can spell that row only, and does not where a bit fixed at 0 is set (30 R78). -/
theorem spells_false_of_reserved_bits {cw : Word} {row : OpRow} (hrow : row ∈ OpRow.table) (hop : opcode cw = opcode row.fixed)
    (hbits : cw &&& (row.mask &&& ~~~row.fixed) ≠ 0#32) : ∀ row' ∈ OpRow.table, row'.spells cw = false := by
  refine fun row' hrow' => Bool.eq_false_iff.2 fun hs => hbits ?_
  obtain rfl := row_eq_of_opcode row' hrow' row hrow ((opcode_of_spells hrow' hs).symm.trans hop)
  rw [← BitVec.and_assoc, (row'.spells_iff cw).1 hs]
  exact BitVec.and_not_self _

/-! ### The response word -/

/-- Every command that is answered adds one response at its port, with value 0 unless its status is OK (30 R80). -/
theorem exec_answered {i : Instr} {s t : State} (h : exec i s = .next t) :
    ∃ st v, s.Answered t st v ∧ (st ≠ .ok → v = 0) := by
  cases h ▸ exec_performs i s with
  | refused | initRefused => exact ⟨_, 0, rfl, fun _ => rfl⟩
  | _ => exact ⟨.ok, _, rfl, fun hne => absurd rfl hne⟩

theorem perform_answered {cw : Word} {s t : State} (h : perform cw s = .next t) :
    ∃ st v, s.Answered t st v ∧ (st ≠ .ok → v = 0) := by
  rcases perform_cases cw s with hn | ⟨i, -, hi⟩
  · rw [hn] at h
    cases h
    exact ⟨_, 0, rfl, fun _ => rfl⟩
  · exact exec_answered (hi ▸ h)

/-! ### SETUP -/

theorem exec_setbase_ok {s : State} (base : Nat) (hK : s.issuer = .K) (hl : s.regs.lifecycle ≠ .faulted) :
    exec (.setbase base) s =
      .next (State.respond .ok 0 (s.withRegs { s.regs with cfgBase := BitVec.ofNat 24 base })) := by
  rw [exec, execSetbase, whenLegal_legal _ (by simp [Instr.legalAt, hK]), unlessFaulted_other _ hl, answer_eq]

theorem exec_init_ok {s : State} {cap : Nat} (pol : Policy) {mode : IndexMode} (hK : s.issuer = .K)
    (hl : s.regs.lifecycle = .unbound) (hcap : capValid s.cfg cap mode = true)
    (hstore : storageValid s.cfg s.regs.cfgBase.toNat cap = true) :
    exec (.init pol mode cap) s = .next (State.respond .ok 0 (s.withRegs (s.regs.boundTo s.cfg pol mode cap))) := by
  rw [exec, execInit, whenLegal_legal _ (by simp [Instr.legalAt, hK])]
  simp [hl, hcap, hstore]

theorem pow2_two_pow (k : Nat) : pow2 (2 ^ k) = true := by simp [pow2]

theorem narrow_toNat_of_lt {w n : Nat} (hw : n < 2 ^ w) (hreg : n < 2 ^ 24) : (narrow w n).toNat = n := by
  rw [narrow, BitVec.toNat_ofNat, Nat.mod_eq_of_lt hw, Nat.mod_eq_of_lt hreg]

/-- A buffer just bound is empty (41 R113). -/
@[simp] theorem boundTo_size (c : Config) (pol : Policy) (mode : IndexMode) (cap : Nat) (r : Regs) :
    (r.boundTo c pol mode cap).size = 0 := by
  cases pol <;> rfl

theorem performAll_cons {p : Port} {i : Instr} {s t : State} (rest : List (Port × Instr)) (h : performAt p i s = .next t) :
    performAll ((p, i) :: rest) s = performAll rest t := by
  rw [performAll, h]

/-- SETUP from an unbound block with valid parameters: two answers OK, and the registers of an INIT after SETBASE (30 R85). -/
theorem performAll_setup {s : State} {base cap : Nat} (pol : Policy) {mode : IndexMode} (hl : s.regs.lifecycle = .unbound)
    (hcap : capValid s.cfg cap mode = true) (hstore : storageValid s.cfg (BitVec.ofNat 24 base).toNat cap = true) :
    ∃ t, performAll ((setup base pol mode cap).map fun i => (Port.K, i)) s = .next t ∧
      t.responses = [⟨.K, responseWord .ok 0⟩, ⟨.K, responseWord .ok 0⟩] ++ s.responses ∧
      t.regs = ({ s.regs with cfgBase := BitVec.ofNat 24 base } : Regs).boundTo s.cfg pol mode cap ∧ t.storage = s.storage := by
  have hsetbase := exec_setbase_ok (s := { s with issuer := .K }) base rfl (by simp [hl])
  exact ⟨_, (performAll_cons _ hsetbase).trans (performAll_cons [] (exec_init_ok pol rfl hl hcap hstore)), rfl, rfl, rfl⟩

/-! ### The statements -/

/-- Settles O3: the rows are told apart by their opcodes, and the decoder reads the row that the word spells. -/
theorem opcodeMapDecidesWhatAWordSpells : Obligations.OpcodeMapDecidesWhatAWordSpells := by
  refine ⟨rfl, fun cw row hrow => ⟨row.spells_iff cw, spells_iff_decode hrow cw⟩,
    fun _ _ _ hrow hrow' hs hs' => row_eq_of_spells hrow hrow' hs hs', fun i => ?_⟩
  cases i <;> rfl

/-- Settles O4: a reserved opcode is no row's, and a set reserved bit is one the row of its opcode fixes at 0. -/
theorem unspelledWordsAreIllegal : Obligations.UnspelledWordsAreIllegal :=
  ⟨fun _ h => spells_false_of_reserved_opcode h, fun _ _ hrow hop hbits => spells_false_of_reserved_bits hrow hop hbits,
    fun _ s h => perform_unspelled s h, spells_false_of_reserved_opcode (.inl rfl)⟩

/-- Settles O8: under the invariants every word is answered, and the fields of a response word are its status, 0 and its value. -/
theorem servedCommandGetsOneResponseWord : Obligations.ServedCommandGetsOneResponseWord := by
  constructor
  · intro s port rest cw hscript hcw
    exact ⟨(step_serve hscript).trans (serve_some rest hcw), rfl, rfl⟩
  · intro s cw hinv
    obtain ⟨t, ht⟩ := perform_answers cw hinv.shaped
    obtain ⟨st, v, hresp, hv⟩ := perform_answered ht
    exact ⟨t, st, v, responseWord st v, ht, hresp, responseWord_status st v, responseWord_reserved st v,
      responseWord_value st v, hv⟩

/-- Settles O21: SETBASE loads the base, which fits the storage space, so INIT passes its checks and binds an empty buffer. -/
theorem setupBindsAnInstance : Obligations.SetupBindsAnInstance := by
  intro s base cap pol mode
  refine ⟨rfl, fun hcfg hbase hl hpos hmax hmode hfit => ?_⟩
  obtain ⟨-, hcapMax, -, -⟩ := hcfg
  have hreg : (BitVec.ofNat 24 base).toNat = base := by rw [BitVec.toNat_ofNat, Nat.mod_eq_of_lt hbase]
  have hcapReg : (BitVec.ofNat 24 cap).toNat = cap := by rw [BitVec.toNat_ofNat, Nat.mod_eq_of_lt (by omega)]
  have hcap : capValid s.cfg cap mode = true := by
    refine (capValid_iff _ _ _).2 ⟨hpos, hmax, fun hmask => ?_⟩
    rcases hmode with hmodulo | ⟨k, rfl⟩
    · exact absurd (hmask.symm.trans hmodulo) (by decide)
    · exact pow2_two_pow k
  have hstore : storageValid s.cfg (BitVec.ofNat 24 base).toNat cap = true := by
    rw [hreg]
    exact decide_eq_true hfit
  obtain ⟨t, ht, hresp, hregs, hstorage⟩ := performAll_setup pol hl hcap hstore
  have hbaseReg : (narrow s.cfg.addrW (BitVec.ofNat 24 base).toNat).toNat = base := by
    rw [hreg, narrow_toNat_of_lt (by omega) hbase]
  exact ⟨t, ht, hresp, hregs ▸ rfl, hregs ▸ hbaseReg, hregs ▸ hcapReg, hregs ▸ rfl, hregs ▸ rfl,
    hregs ▸ boundTo_size _ _ _ _ _, hstorage⟩

/-- Settles O5: each word is the encoding of its command, so it decodes back to it. -/
theorem encodingExamplesDecode : Obligations.EncodingExamplesDecode := by
  intro x hx
  obtain ⟨henc, hwf⟩ : encode x.1 = x.2 ∧ x.1.WellFormed := by
    revert x
    decide
  exact ⟨henc, henc ▸ encodedCommandDecodesToItself x.1 hwf⟩

/-- Settles O6: the two ways of being answered ILLEGAL_COMMAND, and the command's own rule. -/
theorem decodeThenPortThenRule : Obligations.DecodeThenPortThenRule := by
  refine fun cw s => ⟨fun h => perform_unspelled s fun row hrow => ?_, fun i hi hport => ?_, fun i hi _ => ?_⟩
  · exact Bool.eq_false_iff.2 fun hs => h row hrow ((row.spells_iff cw).1 hs)
  · exact (perform_of_decode s hi).trans (exec_illegal hport)
  · exact perform_of_decode s hi

/-- Settles O7: the matrix port by port, and the check that every command begins with. -/
theorem commandAtWrongPortIsIllegal : Obligations.CommandAtWrongPortIsIllegal :=
  ⟨fun p => by simp [Instr.legalAt], fun _ _ h => exec_illegal h⟩

/-- Settles O9: each number is the one its status is coded as, and there are nine statuses. -/
theorem statusNumbersAreTabled : Obligations.StatusNumbersAreTabled := by
  refine ⟨rfl, rfl, rfl, rfl, rfl, rfl, rfl, rfl, rfl, fun st => ?_⟩
  cases st <;> decide

end Sys2Proof.Machine
end

section
/-! SUPPORT. The index unit: `next` is the successor modulo CAP and `dist` the remainder of a difference; what the size, the tests
and `usable()` say of each other under the invariants; and that a run keeps them. Then the statements of the index unit (40). -/
namespace Sys2Proof.Machine

/-! ### The next index -/

/-- The formula of each mode (40 R95). -/
theorem next_eq (r : Regs) (i : Nat) :
    r.next i = if r.mode = .mask then (i + 1) &&& (r.cap.toNat - 1) else (i + 1) % r.cap.toNat := by
  cases h : r.mode <;> simp [Regs.next, h]

theorem exists_two_pow_of_pow2 {n : Nat} (h : pow2 n = true) : ∃ k, n = 2 ^ k := ⟨n.log2, (beq_iff_eq.1 h).symm⟩

/-- At a capacity that INIT accepts both modes compute the successor modulo CAP: a mask of `2^k - 1` keeps the low `k` bits
(40 R96). -/
theorem next_eq_mod {r : Regs} (hpow : r.mode = .mask → pow2 r.cap.toNat = true) (i : Nat) :
    r.next i = (i + 1) % r.cap.toNat := by
  rw [next_eq]
  split
  · obtain ⟨k, hk⟩ := exists_two_pow_of_pow2 (hpow ‹_›)
    rw [hk, Nat.and_two_pow_sub_one_eq_mod]
  · rfl

/-- One increment and one comparison (40 R97). -/
theorem next_eq_ite {r : Regs} (hpow : r.mode = .mask → pow2 r.cap.toNat = true) {i : Nat} (hi : i < r.cap.toNat) :
    r.next i = if i + 1 = r.cap.toNat then 0 else i + 1 := by
  rw [next_eq_mod hpow]
  split
  · rw [‹i + 1 = _›, Nat.mod_self]
  · exact Nat.mod_eq_of_lt (by omega)

/-- The largest capacity that is a power of two and fits its register is `2^23`. -/
theorem cap_le_of_pow2 {r : Regs} (h : pow2 r.cap.toNat = true) : r.cap.toNat ≤ 2 ^ 23 := by
  obtain ⟨k, hk⟩ := exists_two_pow_of_pow2 h
  have hlt : 2 ^ k < 2 ^ 24 := hk ▸ r.cap.isLt
  have hk24 : k < 24 := (Nat.pow_lt_pow_iff_right (by decide)).1 hlt
  exact hk ▸ Nat.pow_le_pow_right (by decide) (by omega)

/-! ### The distance -/

@[simp] theorem dist_self (r : Regs) (i : Nat) : r.dist i i = 0 := by simp [Regs.dist]

/-- Indices below CAP are apart by 0 only where they are equal. -/
theorem dist_eq_zero_iff {r : Regs} {w i : Nat} (hi : i < r.cap.toNat) : r.dist w i = 0 ↔ w = i := by
  unfold Regs.dist
  split <;> omega

/-- From `w` below `i` the way forward goes round the end of the window: CAP is added once (40 R98). -/
theorem dist_eq_emod {r : Regs} {w i : Nat} (hw : w < r.cap.toNat) (hi : i < r.cap.toNat) :
    (r.dist w i : Int) = ((w : Int) - (i : Int)) % (r.cap.toNat : Int) := by
  unfold Regs.dist
  split
  · rw [Int.emod_eq_of_lt (by omega) (by omega)]
    omega
  · rw [← Int.add_emod_right, Int.emod_eq_of_lt (by omega) (by omega)]
    omega

/-- The indices are as far apart as they can be exactly when the slot after `w` is the one at `i`. -/
theorem dist_eq_pred_cap_iff {r : Regs} (hpow : r.mode = .mask → pow2 r.cap.toNat = true) {w i : Nat}
    (hw : w < r.cap.toNat) (hi : i < r.cap.toNat) : r.dist w i = r.cap.toNat - 1 ↔ r.next w = i := by
  rw [next_eq_ite hpow hw]
  unfold Regs.dist
  split <;> split <;> omega

/-! ### The size and the tests under the invariants -/

/-- The full flag decides between CAP and the distance under both policies, as REJECT never sets it (40 R99). -/
theorem size_eq {r : Regs} (h : r.FlagAtEqualIndices) :
    r.size = if r.fullf = true then r.cap.toNat else r.dist r.widx.toNat r.ridx.toNat := by
  cases hp : r.pol with
  | reject =>
    have hf : ¬ r.fullf = true := fun hf => by simpa [hp] using (h hf).1
    simp [Regs.size, hp, hf]
  | overwrite => simp [Regs.size, hp]

theorem isEmpty_reject {r : Regs} (h : r.pol = .reject) : r.isEmpty = true ↔ r.ridx = r.widx := by
  simp [Regs.isEmpty, h]

theorem isEmpty_overwrite {r : Regs} (h : r.pol = .overwrite) :
    r.isEmpty = true ↔ r.ridx = r.widx ∧ r.fullf = false := by
  simp [Regs.isEmpty, h]

theorem isFull_reject {r : Regs} (h : r.pol = .reject) : r.isFull = true ↔ r.next r.widx.toNat = r.ridx.toNat := by
  simp [Regs.isFull, h]

theorem isFull_overwrite {r : Regs} (h : r.pol = .overwrite) : r.isFull = r.fullf := by
  simp [Regs.isFull, h]

theorem usable_reject {r : Regs} (h : r.pol = .reject) : r.usable = r.cap.toNat - 1 := by simp [Regs.usable, h]

theorem usable_overwrite {r : Regs} (h : r.pol = .overwrite) : r.usable = r.cap.toNat := by simp [Regs.usable, h]

/-- Equal indices and a clear full flag are what `is_empty()` tests under both policies. -/
theorem isEmpty_iff {r : Regs} (h : r.FlagAtEqualIndices) : r.isEmpty = true ↔ r.ridx = r.widx ∧ r.fullf = false := by
  cases hp : r.pol with
  | reject =>
    have hf : r.fullf = false := Bool.eq_false_iff.2 fun hf => by simpa [hp] using (h hf).1
    rw [isEmpty_reject hp, and_iff_left hf]
  | overwrite => exact isEmpty_overwrite hp

/-- A full buffer has CAP bytes, which is not 0, and another one is empty where the indices meet (40 R100). -/
theorem isEmpty_iff_size_eq_zero {c : Config} {r : Regs} (h : r.Inv c) (hl : r.lifecycle = .bound) :
    r.isEmpty = true ↔ r.size = 0 := by
  obtain ⟨-, hshape, hflag⟩ := (regs_inv_iff _ _).1 h
  obtain ⟨hpos, -, -, -, hr, -⟩ := hshape hl
  rw [isEmpty_iff (hflag hl), size_eq (hflag hl)]
  cases hf : r.fullf with
  | true => simpa using Nat.ne_of_gt hpos
  | false => simp [dist_eq_zero_iff hr, BitVec.toNat_inj, eq_comm (a := r.ridx)]

/-- The size is at most CAP - 1 under REJECT and CAP under OVERWRITE (10 R39, R40). -/
theorem size_le_usable {c : Config} {r : Regs} (h : r.Inv c) (hl : r.lifecycle = .bound) : r.size ≤ r.usable := by
  obtain ⟨-, -, hrej, hover⟩ := h
  cases hp : r.pol with
  | reject => exact usable_reject hp ▸ (hrej hl hp).2
  | overwrite => exact usable_overwrite hp ▸ (hover hl hp).2

/-- Under REJECT the buffer is full one slot before the write index meets the read index; under OVERWRITE with a clear flag the
distance is below CAP (40 R104). -/
theorem isFull_iff_size_eq_usable {c : Config} {r : Regs} (h : r.Inv c) (hl : r.lifecycle = .bound) :
    r.isFull = true ↔ r.size = r.usable := by
  obtain ⟨-, hshape, hflag⟩ := (regs_inv_iff _ _).1 h
  obtain ⟨-, -, hpow, -, hr, hw⟩ := hshape hl
  cases hp : r.pol with
  | reject =>
    rw [isFull_reject hp, usable_reject hp, ← dist_eq_pred_cap_iff hpow hw hr]
    simp [Regs.size, hp]
  | overwrite =>
    have hd : r.dist r.widx.toNat r.ridx.toNat ≠ r.cap.toNat := (dist_lt_cap hw).ne
    rw [isFull_overwrite hp, usable_overwrite hp, size_eq (hflag hl)]
    cases hf : r.fullf <;> simp [hd]

/-! ### Runs -/

/-- A run that goes on begins with a step that goes on. -/
theorem run_succ_next {M : Host.Core} {n : Nat} {s t : M.State} (h : M.run (n + 1) s = .next t) :
    ∃ u, M.step s = .next u ∧ M.run n u = .next t := by
  rw [Host.Core.run] at h
  split at h
  case h_1 u hu => exact ⟨u, hu, h⟩
  case h_2 => cases h
  case h_3 => cases h

/-- What every step keeps holds at the end of a run of any length. -/
theorem run_keeps {M : Host.Core} {P : M.State → Prop} (hstep : ∀ s t, M.step s = .next t → P s → P t) {n : Nat}
    {s t : M.State} (hrun : M.run n s = .next t) (hs : P s) : P t := by
  induction n generalizing s with
  | zero =>
    cases hrun
    exact hs
  | succ n ih =>
    obtain ⟨u, hu, hrest⟩ := run_succ_next hrun
    exact ih hrest (hstep s u hu hs)

/-! ### A WRITE on a full buffer and a READ on an empty one -/

theorem exec_write_full {s : State} (d : Nat) (hP : s.issuer = .P) (hl : s.regs.lifecycle = .bound)
    (hpol : s.regs.pol = .reject) (hfull : s.regs.isFull = true) :
    exec (.write d) s = .next (s.respond .bufferFull 0) := by
  rw [exec, execWrite, whenLegal_legal _ (by simp [Instr.legalAt, hP]), whenBound_bound _ hl]
  simp [hpol, hfull]

theorem exec_read_empty {s : State} (hC : s.issuer = .C) (hl : s.regs.lifecycle = .bound)
    (hempty : s.regs.isEmpty = true) : exec .read s = .next (s.respond .bufferEmpty 0) := by
  rw [exec, execRead, whenLegal_legal _ (by simp [Instr.legalAt, hC]), whenBound_bound _ hl]
  simp [hempty]

/-! ### The statements -/

/-- Settles O43: a MASK capacity is a power of two, so its mask is a remainder; and `i + 1` is at most CAP. -/
theorem nextIsTheSuccessorModuloCapacity : Obligations.NextIsTheSuccessorModuloCapacity := by
  intro c r i hc hshape hl hi
  obtain ⟨hpos, -, hpow, -, -, -⟩ := hshape hl
  have hcap := r.cap.isLt
  exact ⟨next_eq r i, next_lt_cap hpos i, next_eq_mod hpow i, next_eq_ite hpow hi, by omega,
    fun hm => (Nat.succ_le_of_lt hi).trans (cap_le_of_pow2 (hpow hm))⟩

/-- Settles O44: the two cases of the rule are the difference and the difference with CAP added once. -/
theorem distIsTheRemainder : Obligations.DistIsTheRemainder := by
  intro r w i hw hi
  have hcap := r.cap.isLt
  exact ⟨dist_eq_emod hw hi, rfl, dist_lt_cap hw, by omega⟩

/-- Settles O45, by the full flag: it stands for CAP bytes, and a clear one leaves the distance. -/
theorem emptyExactlyAtSizeZero : Obligations.EmptyExactlyAtSizeZero :=
  fun _ _ h hl => ⟨isEmpty_iff_size_eq_zero h hl, isEmpty_reject, isEmpty_overwrite⟩

/-- Settles O46: `usable()` is the size of each policy's clause. -/
theorem fullExactlyAtUsableSize : Obligations.FullExactlyAtUsableSize := by
  intro c r _ h hl
  have hfull := isFull_iff_size_eq_usable h hl
  exact ⟨fun hp => usable_reject hp ▸ hfull, fun hp => usable_overwrite hp ▸ hfull, hfull⟩

/-- Settles O47: every step keeps the invariants, which bound the size while BOUND. -/
theorem sizeNeverExceedsUsable : Obligations.SizeNeverExceedsUsable := by
  intro n s t hs hrun hl
  obtain ⟨-, hinv, -, -⟩ : t.Inv := run_keeps (M := Sys2Proof.core) (fun _ _ h => step_keeps_inv h) hrun hs
  exact size_le_usable hinv hl

/-- Settles O49: the only index is 0. Under REJECT no byte is usable, so size 0 is both ends; under OVERWRITE the full flag alone
says whether the one slot is used. -/
theorem capacityOneInstances : Obligations.CapacityOneInstances := by
  rintro s ⟨-, hinv, -, -⟩ hl hcap1
  have hcap : s.regs.cap.toNat = 1 := by simp [hcap1]
  obtain ⟨-, hshape, hflag⟩ := (regs_inv_iff _ _).1 hinv
  obtain ⟨hpos, -, -, -, -, hw⟩ := hshape hl
  refine ⟨by have := next_lt_cap hpos 0; omega, dist_self _ 0, fun hp => ?_, fun _ => ?_⟩
  · have husable : s.regs.usable = 0 := by rw [usable_reject hp, hcap]
    have hsize : s.regs.size = 0 := Nat.le_zero.1 (husable ▸ size_le_usable hinv hl)
    have hempty := (isEmpty_iff_size_eq_zero hinv hl).2 hsize
    have hfull := (isFull_iff_size_eq_usable hinv hl).2 (hsize.trans husable.symm)
    exact ⟨hsize, husable, hempty, hfull, fun d => exec_write_full d rfl hl hp hfull, exec_read_empty rfl hl hempty⟩
  · have hdist : s.regs.dist s.regs.widx.toNat s.regs.ridx.toNat = 0 := by
      have := dist_lt_cap (i := s.regs.ridx.toNat) hw
      omega
    rw [size_eq (hflag hl), hdist, hcap]

end Sys2Proof.Machine
end

section
/-! SUPPORT. The lifecycle commands outcome by outcome: who is refused in which state, and the next state of each that is not; the
fresh buffer that INIT and RESET leave; and what only they and DEINIT write. Then the statements of the lifecycle (41). -/
namespace Sys2Proof.Machine

/-! ### The control port -/

/-- A command of port K alone is ILLEGAL_COMMAND at the others (30 R79); `hi` is the row of the matrix, `rfl` at each command. -/
theorem exec_elsewhere {i : Instr} {s : State} (hi : i.legalAt = (· == Port.K)) (h : s.issuer ≠ .K) :
    exec i s = .next (s.respond .illegalCommand 0) :=
  exec_illegal (hi ▸ beq_false_of_ne h)

theorem legalAt_K {i : Instr} {s : State} (hi : i.legalAt = (· == Port.K)) (hK : s.issuer = .K) :
    i.legalAt s.issuer = true :=
  hi ▸ beq_iff_eq.2 hK

/-! ### The refusals of each lifecycle state -/

/-- While FAULTED the check comes right after that of the port (60 R160, R161). -/
theorem exec_faulted {i : Instr} {s : State} (hleg : i.legalAt s.issuer = true) (hl : s.regs.lifecycle = .faulted) :
    exec i s = .next (s.respond .faulted 0) := by
  cases i with
  | setbase => exact (whenLegal_legal _ hleg).trans (unlessFaulted_faulted _ hl)
  | init | deinit => exact (whenLegal_legal _ hleg).trans (by simp [hl])
  | _ => exact (whenLegal_legal _ hleg).trans (whenBound_faulted _ hl)

/-- While UNBOUND a command that needs a buffer has none (60 R156). -/
theorem exec_notBound {i : Instr} {s : State} (hleg : i.legalAt s.issuer = true) (hl : s.regs.lifecycle = .unbound)
    (hi : i = .reset ∨ (∃ d, i = .write d) ∨ i = .read ∨ i = .isEmpty ∨ i = .isFull ∨ i = .size ∨ i = .capacity) :
    exec i s = .next (s.respond .notBound 0) := by
  rcases hi with rfl | ⟨d, rfl⟩ | rfl | rfl | rfl | rfl | rfl <;>
    exact (whenLegal_legal _ hleg).trans (whenBound_unbound _ hl)

theorem exec_deinit_unbound {s : State} (hleg : Instr.deinit.legalAt s.issuer = true) (hl : s.regs.lifecycle = .unbound) :
    exec .deinit s = .next (s.respond .ok 0) :=
  (whenLegal_legal _ hleg).trans (by simp [hl])

section
variable {s : State} {pol : Policy} {mode : IndexMode} {cap : Nat}

theorem exec_init_bound (hleg : (Instr.init pol mode cap).legalAt s.issuer = true) (hl : s.regs.lifecycle = .bound) :
    exec (.init pol mode cap) s = .next (s.respond .alreadyBound 0) :=
  (whenLegal_legal _ hleg).trans (by simp [hl])

theorem exec_init_invalidCapacity (hleg : (Instr.init pol mode cap).legalAt s.issuer = true)
    (hl : s.regs.lifecycle = .unbound) (hcap : ¬ capValid s.cfg cap mode = true) :
    exec (.init pol mode cap) s = .next (s.enterFault.respond .invalidCapacity 0) :=
  (whenLegal_legal _ hleg).trans (by simp [hl, hcap])

theorem exec_init_invalidStorage (hleg : (Instr.init pol mode cap).legalAt s.issuer = true)
    (hl : s.regs.lifecycle = .unbound) (hcap : capValid s.cfg cap mode = true)
    (hstore : ¬ storageValid s.cfg s.regs.cfgBase.toNat cap = true) :
    exec (.init pol mode cap) s = .next (s.enterFault.respond .invalidStorage 0) :=
  (whenLegal_legal _ hleg).trans (by simp [hl, hcap, hstore])

end

/-! ### The effects on a bound buffer -/

theorem exec_deinit_bound {s : State} (hK : s.issuer = .K) (hl : s.regs.lifecycle = .bound) :
    exec .deinit s = .next (State.respond .ok 0 (s.withRegs s.regs.released)) :=
  (whenLegal_legal _ (legalAt_K rfl hK)).trans (by simp [hl])

theorem exec_reset_bound {s : State} (hK : s.issuer = .K) (hl : s.regs.lifecycle = .bound) :
    exec .reset s = .next (State.respond .ok 0 (s.withRegs s.regs.emptied)) :=
  (whenLegal_legal _ (legalAt_K rfl hK)).trans (whenBound_bound _ hl)

theorem exec_capacity_bound {s : State} (hl : s.regs.lifecycle = .bound) :
    exec .capacity s = .next (s.respond .ok s.regs.cap) :=
  (whenLegal_legal (i := .capacity) (s := s) _ rfl).trans (whenBound_bound _ hl)

/-! ### The operands and checks of INIT -/

theorem initHeader_eq (pol : Policy) (mode : IndexMode) :
    initHeader pol mode = 0x20000000#32 ||| (if pol = .overwrite then 0x08000000#32 else 0#32) |||
      (if mode = .modulo then 0x04000000#32 else 0#32) := by
  cases pol <;> cases mode <;> decide

theorem pow2_iff (n : Nat) : pow2 n = true ↔ ∃ k, n = 2 ^ k :=
  ⟨exists_two_pow_of_pow2, fun ⟨k, hk⟩ => hk ▸ pow2_two_pow k⟩

/-- The capacity check in the words of 41 R110. -/
theorem capValid_iff_two_pow (c : Config) (cap : Nat) (mode : IndexMode) :
    capValid c cap mode = true ↔ 1 ≤ cap ∧ cap ≤ c.capMax ∧ (mode = .modulo ∨ ∃ k, cap = 2 ^ k) := by
  rw [capValid_iff, ← pow2_iff]
  cases mode <;> simp

theorem storageValid_iff (c : Config) (base cap : Nat) : storageValid c base cap = true ↔ base + cap ≤ 2 ^ c.addrW :=
  decide_eq_true_iff

/-- A register whose value fits the width is not changed by narrowing to it. -/
theorem narrow_toNat_self {w : Nat} {r : Reg} (h : r.toNat < 2 ^ w) : narrow w r.toNat = r :=
  BitVec.eq_of_toNat_eq (narrow_toNat_of_lt h r.isLt)

/-- A window of at least one slot that lies in the storage space has its base there, so BASE takes CFG_BASE whole. -/
theorem boundTo_eq {c : Config} {r : Regs} {cap : Nat} (pol : Policy) (mode : IndexMode) (hpos : 1 ≤ cap)
    (hfit : r.cfgBase.toNat + cap ≤ 2 ^ c.addrW) :
    r.boundTo c pol mode cap =
      { lifecycle := .bound, cfgBase := r.cfgBase, base := r.cfgBase, cap := BitVec.ofNat 24 cap, pol := pol, mode := mode,
        ridx := 0, widx := 0, fullf := false } := by
  rw [Regs.boundTo, narrow_toNat_self (by omega)]

/-! ### The fresh buffer -/

/-- A bound buffer as INIT and RESET leave it: the indices and the full flag 0 (41 R113, R115). -/
structure Regs.Fresh (r : Regs) : Prop where
  bound : r.lifecycle = .bound
  ridx : r.ridx = 0
  widx : r.widx = 0
  fullf : r.fullf = false

theorem boundTo_fresh (c : Config) (pol : Policy) (mode : IndexMode) (cap : Nat) (r : Regs) :
    (r.boundTo c pol mode cap).Fresh :=
  ⟨rfl, rfl, rfl, rfl⟩

theorem emptied_fresh {r : Regs} (hl : r.lifecycle = .bound) : r.emptied.Fresh := ⟨hl, rfl, rfl, rfl⟩

theorem Regs.Fresh.flagAtEqualIndices {r : Regs} (h : r.Fresh) : r.FlagAtEqualIndices :=
  fun hf => absurd hf (by simp [h.fullf])

theorem Regs.Fresh.isEmpty {r : Regs} (h : r.Fresh) : r.isEmpty = true :=
  (isEmpty_iff h.flagAtEqualIndices).2 ⟨h.ridx.trans h.widx.symm, h.fullf⟩

theorem Regs.Fresh.size {r : Regs} (h : r.Fresh) : r.size = 0 := by
  rw [size_eq h.flagAtEqualIndices, h.fullf, h.ridx, h.widx]
  exact dist_self r 0

/-- The response word shows the status, so a refused command is not answered OK. -/
theorem not_answered_ok {s t : State} {st : Status} (hst : st ≠ .ok)
    (h : t.responses = { port := s.issuer, word := responseWord st 0 } :: s.responses) : ¬ s.Answered t .ok 0 := by
  intro hok
  rw [State.Answered, h] at hok
  simp only [List.cons.injEq, Response.mk.injEq, true_and, and_true] at hok
  exact hst (responseWord_injective hok).1

theorem exec_reset_fresh {s t : State} (h : exec .reset s = .next t) (hok : s.Answered t .ok 0) : t.regs.Fresh := by
  cases h ▸ exec_performs .reset s with
  | refused _ _ hst => exact absurd hok (not_answered_ok hst rfl)
  | queried _ _ hi => simp at hi
  | emptied hl => exact emptied_fresh hl

theorem exec_init_fresh {s t : State} {pol : Policy} {mode : IndexMode} {cap : Nat}
    (h : exec (.init pol mode cap) s = .next t) (hok : s.Answered t .ok 0) : t.regs.Fresh := by
  cases h ▸ exec_performs (.init pol mode cap) s with
  | refused _ _ hst => exact absurd hok (not_answered_ok hst rfl)
  | queried _ _ hi => simp at hi
  | initRefused _ _ _ _ hst => exact absurd hok (not_answered_ok hst rfl)
  | initBound => exact boundTo_fresh _ _ _ _ _

/-! ### What only INIT and DEINIT write -/

/-- No command but INIT and DEINIT writes STATE (10 R36). -/
theorem exec_keeps_lifecycle {i : Instr} {s t : State} (h : exec i s = .next t)
    (hinit : ∀ pol mode cap, i ≠ .init pol mode cap) (hdeinit : i ≠ .deinit) : t.regs.lifecycle = s.regs.lifecycle := by
  cases h ▸ exec_performs i s with
  | initRefused => exact absurd rfl (hinit _ _ _)
  | initBound => exact absurd rfl (hinit _ _ _)
  | released => exact absurd rfl hdeinit
  | stored => exact afterWrite_lifecycle _ _
  | _ => rfl

/-- INIT of an unbound block binds it or enters FAULTED, as its two checks say (41 R113). -/
theorem exec_init_lifecycle {s t : State} {pol : Policy} {mode : IndexMode} {cap : Nat} (hK : s.issuer = .K)
    (hl : s.regs.lifecycle = .unbound) (h : exec (.init pol mode cap) s = .next t) :
    t.regs.lifecycle =
      if capValid s.cfg cap mode = true ∧ storageValid s.cfg s.regs.cfgBase.toNat cap = true then .bound else .faulted := by
  by_cases hcap : capValid s.cfg cap mode = true
  · by_cases hstore : storageValid s.cfg s.regs.cfgBase.toNat cap = true
    · rw [exec_init_ok pol hK hl hcap hstore] at h
      cases h
      exact (if_pos ⟨hcap, hstore⟩).symm
    · rw [exec_init_invalidStorage (legalAt_K rfl hK) hl hcap hstore] at h
      cases h
      exact (if_neg fun hv => hstore hv.2).symm
  · rw [exec_init_invalidCapacity (legalAt_K rfl hK) hl hcap] at h
    cases h
    exact (if_neg fun hv => hcap hv.1).symm

/-- The registers that describe the bound buffer: where it lies, how large it is and how it is run. -/
abbrev Regs.SameBuffer (r r' : Regs) : Prop := r'.cap = r.cap ∧ r'.base = r.base ∧ r'.pol = r.pol ∧ r'.mode = r.mode

/-- INIT is refused while BOUND and DEINIT ends it, so a command that begins and ends BOUND keeps the buffer (41 R119). -/
theorem exec_keeps_buffer {i : Instr} {s t : State} (h : exec i s = .next t) (hs : s.regs.lifecycle = .bound)
    (ht : t.regs.lifecycle = .bound) : s.regs.SameBuffer t.regs := by
  cases h ▸ exec_performs i s with
  | initRefused _ _ _ _ _ hl => simp [hs] at hl
  | initBound _ _ _ hl => simp [hs] at hl
  | released => simp at ht
  | stored => exact ⟨afterWrite_cap _ _, afterWrite_base _ _, afterWrite_pol _ _, afterWrite_mode _ _⟩
  | _ => exact ⟨rfl, rfl, rfl, rfl⟩

theorem perform_keeps_buffer {cw : Word} {s t : State} (h : perform cw s = .next t) (hs : s.regs.lifecycle = .bound)
    (ht : t.regs.lifecycle = .bound) : s.regs.SameBuffer t.regs := by
  rcases perform_cases cw s with hn | ⟨i, -, hi⟩
  · rw [hn] at h; cases h; exact ⟨rfl, rfl, rfl, rfl⟩
  · exact exec_keeps_buffer (hi ▸ h) hs ht

theorem step_keeps_buffer {s t : State} (h : step s = .next t) (hs : s.regs.lifecycle = .bound)
    (ht : t.regs.lifecycle = .bound) : s.regs.SameBuffer t.regs := by
  cases step_steps h with
  | performed _ _ taken _ _ htaken hperform =>
    obtain ⟨-, hregs, -, -, -⟩ := htaken.keeps
    exact hregs ▸ perform_keeps_buffer hperform (hregs ▸ hs) ht
  | por => simp at ht
  | _ => exact ⟨rfl, rfl, rfl, rfl⟩

/-! ### The statements -/

/-- Settles O16: INIT passes the checks of its port, of STATE, of the capacity and of the window in this order, and each of them
has its answer; the base of a window that fits is CFG_BASE itself. -/
theorem initBindsOrRefuses : Obligations.InitBindsOrRefuses := by
  intro s pol mode cap _ hwidth
  rw [← capValid_iff_two_pow, ← storageValid_iff]
  refine ⟨congrArg (· ||| BitVec.ofNat 32 cap) (initHeader_eq pol mode), exec_elsewhere rfl,
    fun hK => exec_faulted (legalAt_K rfl hK), fun hK => exec_init_bound (legalAt_K rfl hK),
    fun hK => exec_init_invalidCapacity (legalAt_K rfl hK), fun hK => exec_init_invalidStorage (legalAt_K rfl hK),
    fun hK hl hcap hstore => ?_⟩
  have hpos : 1 ≤ cap := ((capValid_iff _ _ _).1 hcap).1
  have hregs := boundTo_eq pol mode hpos ((storageValid_iff _ _ _).1 hstore)
  have hcapReg : (BitVec.ofNat 24 cap).toNat = cap := by rw [BitVec.toNat_ofNat, Nat.mod_eq_of_lt hwidth]
  have hexec := exec_init_ok pol hK hl hcap hstore
  exact ⟨_, hexec, hregs, hcapReg, rfl, exec_environment hexec, rfl⟩

/-- Settles O20: INIT and RESET answered OK leave a fresh buffer, and a READ of one finds it empty. -/
theorem freshBufferReadsEmpty : Obligations.FreshBufferReadsEmpty := by
  intro s t i hi h hok
  have hfresh : t.regs.Fresh := by
    rcases hi with rfl | ⟨pol, mode, cap, rfl⟩
    · exact exec_reset_fresh h hok
    · exact exec_init_fresh h hok
  have hread : performAt .C .read t = .next (State.respond .bufferEmpty 0 { t with issuer := .C }) :=
    exec_read_empty rfl hfresh.bound hfresh.isEmpty
  exact ⟨hfresh.isEmpty, hfresh.size, _, hread, rfl, rfl, rfl⟩

/-- Settles O42: only INIT and DEINIT move STATE, INIT from UNBOUND and DEINIT from BOUND; while FAULTED nothing does but POR. -/
theorem lifecycleStateMachine : Obligations.LifecycleStateMachine := by
  refine ⟨fun s t i hleg h => ?_, fun s i hleg => ⟨?_, exec_notBound hleg, ?_, exec_faulted hleg⟩, ?_⟩
  · cases hl : s.regs.lifecycle with
    | faulted =>
      rw [exec_faulted hleg hl] at h
      cases h
      exact hl
    | unbound =>
      cases i with
      | init pol mode cap => exact exec_init_lifecycle (beq_iff_eq.1 hleg) hl h
      | deinit =>
        rw [exec_deinit_unbound hleg hl] at h
        cases h
        exact hl
      | _ => exact (exec_keeps_lifecycle h nofun nofun).trans hl
    | bound =>
      cases i with
      | init pol mode cap =>
        rw [exec_init_bound hleg hl] at h
        cases h
        exact hl
      | deinit =>
        rw [exec_deinit_bound (beq_iff_eq.1 hleg) hl] at h
        cases h
        rfl
      | _ => exact (exec_keeps_lifecycle h nofun nofun).trans hl
  · rintro hl rfl
    exact exec_deinit_unbound hleg hl
  · rintro hl ⟨pol, mode, cap, rfl⟩
    exact exec_init_bound hleg hl
  · intro s t rest hscript h
    rw [step_por hscript] at h
    cases h
    rfl

/-- Settles O50: of all moves only a performed command and POR write registers; POR ends BOUND, and a command that leaves the
block BOUND keeps the buffer. -/
theorem capacityIsConstantWhileBound : Obligations.CapacityIsConstantWhileBound := by
  intro s t hs h ht
  obtain ⟨hcap, hbase, hpol, hmode⟩ := step_keeps_buffer h hs ht
  exact ⟨hcap, hbase, hpol, hmode, exec_capacity_bound hs, hcap ▸ exec_capacity_bound ht⟩

/-- Settles O15: SETBASE asks only whether the block is FAULTED, and its operand fits the register. -/
theorem setbaseLoadsTheNextBase : Obligations.SetbaseLoadsTheNextBase := by
  intro s base hwidth
  refine ⟨rfl, exec_elsewhere rfl, fun hK => exec_faulted (legalAt_K rfl hK), fun hK hl => ?_⟩
  have hbase : (BitVec.ofNat 24 base).toNat = base := by rw [BitVec.toNat_ofNat, Nat.mod_eq_of_lt hwidth]
  have hexec := exec_setbase_ok base hK hl
  exact ⟨_, hexec, hbase, rfl, rfl, exec_environment hexec, rfl⟩

/-- Settles O17: DEINIT has one answer for each state, and what it releases is every register but CFG_BASE. -/
theorem deinitReleasesTheInstance : Obligations.DeinitReleasesTheInstance := by
  refine ⟨rfl, fun s => ⟨exec_elsewhere rfl, fun hK => exec_faulted (legalAt_K rfl hK),
    fun hK => exec_deinit_unbound (legalAt_K rfl hK), fun hK hl => ?_⟩⟩
  have hexec := exec_deinit_bound hK hl
  exact ⟨_, hexec, rfl, rfl, exec_environment hexec, rfl⟩

/-- Settles O18: RESET needs a bound buffer, and empties it. -/
theorem resetEmptiesTheInstance : Obligations.ResetEmptiesTheInstance := by
  refine ⟨rfl, fun s => ⟨exec_elsewhere rfl, fun hK => exec_faulted (legalAt_K rfl hK),
    fun hK hl => exec_notBound (legalAt_K rfl hK) hl (.inl rfl), fun hK hl => ?_⟩⟩
  have hexec := exec_reset_bound hK hl
  exact ⟨_, hexec, rfl, rfl, exec_environment hexec, rfl⟩

/-- Settles O19: RESET leaves the buffer bound and fresh, and emptying an emptied buffer leaves it as it is. -/
theorem resetIsIdempotent : Obligations.ResetIsIdempotent := by
  intro s hK hl
  have hfresh := emptied_fresh hl
  exact ⟨_, _, exec_reset_bound hK hl, exec_reset_bound hK hl, rfl, rfl, rfl, hfresh.isEmpty, hfresh.size⟩

end Sys2Proof.Machine
end

section
/-! SUPPORT. The unread bytes of a bound buffer: which slots hold them, how WRITE and READ move the indices and the size, and what
they do to the logical content. -/
namespace Sys2Proof.Machine

/-! ### An index fits its register -/

theorem le_two_pow_ceilLog2 (n : Nat) : n ≤ 2 ^ Config.ceilLog2 n := by
  unfold Config.ceilLog2
  split
  · simpa
  · have := Nat.lt_log2_self (n := n - 1)
    omega

/-- Every index below CAP_MAX can be written in IDX_W bits (00 R10). -/
theorem capMax_le_two_pow_idxW (c : Config) : c.capMax ≤ 2 ^ c.idxW :=
  (le_two_pow_ceilLog2 _).trans (Nat.pow_le_pow_right (by decide) (le_max_right _ _))

/-- What the proofs below use of a bound buffer within its invariants (10 R38 to R40). -/
structure Regs.Live (c : Config) (r : Regs) : Prop where
  pos : 1 ≤ r.cap.toNat
  cap_le : r.cap.toNat ≤ c.capMax
  pow : r.mode = .mask → pow2 r.cap.toNat = true
  ridx_lt : r.ridx.toNat < r.cap.toNat
  widx_lt : r.widx.toNat < r.cap.toNat
  flag : r.FlagAtEqualIndices
  size_le : r.size ≤ r.usable
  isEmpty_iff : r.isEmpty = true ↔ r.size = 0
  isFull_iff : r.isFull = true ↔ r.size = r.usable

theorem Regs.Inv.live {c : Config} {r : Regs} (h : r.Inv c) (hl : r.lifecycle = .bound) : r.Live c := by
  obtain ⟨-, hshape, hflag⟩ := (regs_inv_iff c r).1 h
  obtain ⟨hpos, hmax, hpow, -, hr, hw⟩ := hshape hl
  exact ⟨hpos, hmax, hpow, hr, hw, hflag hl, size_le_usable h hl,
    isEmpty_iff_size_eq_zero h hl, isFull_iff_size_eq_usable h hl⟩

theorem State.Inv.live {s : State} (hs : s.Inv) (hl : s.regs.lifecycle = .bound) : s.regs.Live s.cfg :=
  Regs.Inv.live hs.2.1 hl

theorem usable_le_cap (r : Regs) : r.usable ≤ r.cap.toNat := by
  cases hp : r.pol with
  | reject => exact usable_reject hp ▸ Nat.sub_le _ _
  | overwrite => exact (usable_overwrite hp).le

theorem usable_congr {r r' : Regs} (hpol : r'.pol = r.pol) (hcap : r'.cap = r.cap) : r'.usable = r.usable := by
  simp [Regs.usable, hpol, hcap]

/-! ### The slots from the read index forward -/

/-- The storage address of the `k`-th unread byte, counted from RIDX (42 R127). -/
def Regs.unreadAddr (r : Regs) (k : Nat) : Nat := r.slotAddr ((r.ridx.toNat + k) % r.cap.toNat)

theorem unread_eq (s : State) (k : Nat) : s.unread k = Memory.byteAt s.storage (s.regs.unreadAddr k) := rfl

theorem dist_add_mod {r : Regs} {i k : Nat} (hi : i < r.cap.toNat) (hk : k < r.cap.toNat) :
    r.dist ((i + k) % r.cap.toNat) i = k := by
  rcases Nat.lt_or_ge (i + k) r.cap.toNat with hlt | hge
  · rw [Nat.mod_eq_of_lt hlt, Regs.dist, if_pos (Nat.le_add_right i k), Nat.add_sub_cancel_left]
  · rw [Nat.mod_eq_sub_mod hge, Nat.mod_eq_of_lt (by omega), Regs.dist, if_neg (by omega)]
    omega

theorem add_dist_mod {r : Regs} {w i : Nat} (hw : w < r.cap.toNat) (hi : i < r.cap.toNat) :
    (i + r.dist w i) % r.cap.toNat = w := by
  unfold Regs.dist
  split
  · rw [Nat.add_sub_cancel' ‹i ≤ w›, Nat.mod_eq_of_lt hw]
  · rw [Nat.add_sub_cancel' (by omega), Nat.add_mod_right, Nat.mod_eq_of_lt hw]

/-- Fewer than CAP slots forward of each other, two slots are different. -/
theorem unreadAddr_inj {r : Regs} {j k : Nat} (hj : j < r.cap.toNat) (hk : k < r.cap.toNat)
    (he : r.unreadAddr j = r.unreadAddr k) : j = k := by
  have hmod := Nat.ModEq.add_left_cancel' r.ridx.toNat (Nat.add_left_cancel he)
  rwa [Nat.ModEq, Nat.mod_eq_of_lt hj, Nat.mod_eq_of_lt hk] at hmod

/-- CAP slots forward is where one began. -/
theorem unreadAddr_cap (r : Regs) : r.unreadAddr r.cap.toNat = r.unreadAddr 0 := by
  rw [Regs.unreadAddr, Regs.unreadAddr, Nat.add_mod_right, Nat.add_zero]

section
variable {c : Config} {r : Regs} (h : r.Live c)
include h

theorem Regs.Live.narrow_next (i : Nat) : (narrow c.idxW (r.next i)).toNat = r.next i := by
  have hlt := next_lt_cap h.pos i
  exact narrow_toNat_of_lt (hlt.trans_le (h.cap_le.trans (capMax_le_two_pow_idxW c))) (hlt.trans r.cap.isLt)

theorem Regs.Live.next_mod (i : Nat) : r.next (i % r.cap.toNat) = (i + 1) % r.cap.toNat := by
  rw [next_eq_mod h.pow, Nat.mod_add_mod]

/-- The write slot is the one after the newest unread byte (42 R128): a set full flag goes once round the window. -/
theorem Regs.Live.widx_eq : r.widx.toNat = (r.ridx.toNat + r.size) % r.cap.toNat := by
  rw [size_eq h.flag]
  split
  · rw [Nat.add_mod_right, Nat.mod_eq_of_lt h.ridx_lt, (h.flag ‹_›).2]
  · exact (add_dist_mod h.widx_lt h.ridx_lt).symm

theorem Regs.Live.writeAddr_eq : r.writeAddr = r.unreadAddr r.size := by
  rw [Regs.writeAddr, h.widx_eq, Regs.unreadAddr]

theorem Regs.Live.readAddr_eq : r.readAddr = r.unreadAddr 0 := by
  rw [Regs.readAddr, Regs.unreadAddr, Nat.add_zero, Nat.mod_eq_of_lt h.ridx_lt]

/-- Past a read index advanced by one slot, every slot is one further (40 R95). -/
theorem Regs.Live.unreadAddr_advance {r' : Regs} (hridx : r'.ridx = narrow c.idxW (r.next r.ridx.toNat))
    (hbase : r'.base = r.base) (hcap : r'.cap = r.cap) (k : Nat) : r'.unreadAddr k = r.unreadAddr (k + 1) := by
  rw [Regs.unreadAddr, hcap, hridx, h.narrow_next, next_eq_mod h.pow, Nat.mod_add_mod, Nat.add_right_comm, Nat.add_assoc]
  simp only [Regs.slotAddr, hbase, Regs.unreadAddr]

theorem Regs.Live.isFull_eq_false_iff : r.isFull = false ↔ r.size < r.usable := by
  rw [← Bool.not_eq_true, h.isFull_iff]
  exact h.size_le.lt_iff_ne.symm

theorem Regs.Live.isEmpty_eq_false_iff : r.isEmpty = false ↔ 0 < r.size := by
  rw [← Bool.not_eq_true, h.isEmpty_iff, Nat.pos_iff_ne_zero]

theorem Regs.Live.size_le_cap : r.size ≤ r.cap.toNat := h.size_le.trans (usable_le_cap r)

end

/-! ### The size after a WRITE and after a READ -/

/-- With a clear full flag, the size is how far the write index is ahead of the read index. -/
theorem size_of_widx {r : Regs} {k : Nat} (hf : r.fullf = false) (hi : r.ridx.toNat < r.cap.toNat) (hk : k < r.cap.toNat)
    (hw : r.widx.toNat = (r.ridx.toNat + k) % r.cap.toNat) : r.size = k := by
  have hflag : r.FlagAtEqualIndices := fun ht => by simp [hf] at ht
  rw [size_eq hflag, hf, if_neg nofun, hw, dist_add_mod hi hk]

theorem size_of_fullf {r : Regs} (hpol : r.pol = .overwrite) (hf : r.fullf = true) : r.size = r.cap.toNat := by
  simp [Regs.size, hpol, hf]

/-- Only a WRITE on a full buffer drops its oldest byte (42 R125). -/
theorem afterWrite_ridx_of_free (c : Config) {r : Regs} (hfree : r.isFull = false) : (r.afterWrite c).ridx = r.ridx := by
  refine afterWrite_ridx_kept c ?_
  cases hp : r.pol with
  | reject => exact .inl rfl
  | overwrite => exact .inr (isFull_overwrite hp ▸ hfree)

/-- Under OVERWRITE a WRITE sets FULLF exactly where the updated indices meet (40 R103). -/
theorem afterWrite_fullf_overwrite (c : Config) {r : Regs} (hpol : r.pol = .overwrite) :
    (r.afterWrite c).fullf = true ↔ (r.afterWrite c).widx = (r.afterWrite c).ridx := by
  cases hf : r.fullf with
  | false => simp [afterWrite_overwrite_free c r hpol hf, BitVec.toNat_inj]
  | true => simp [afterWrite_overwrite_full c r hpol hf, BitVec.toNat_inj]

section
variable {c : Config} {r : Regs} (h : r.Live c)
include h

theorem Regs.Live.afterWrite_widx_eq : (r.afterWrite c).widx.toNat = (r.ridx.toNat + (r.size + 1)) % r.cap.toNat := by
  rw [afterWrite_widx, h.narrow_next, h.widx_eq, h.next_mod, Nat.add_assoc]

/-- A WRITE on a buffer that is not full adds one byte: below CAP the indices are apart and the full flag is clear; the byte that
makes CAP under OVERWRITE has them meet and sets it. -/
theorem Regs.Live.afterWrite_size_free (hfree : r.isFull = false) : (r.afterWrite c).size = r.size + 1 := by
  have hlt := h.isFull_eq_false_iff.1 hfree
  have hridx := afterWrite_ridx_of_free c hfree
  have hwidx := h.afterWrite_widx_eq
  rcases Nat.lt_or_ge (r.size + 1) r.cap.toNat with hsmall | hlast
  · refine size_of_widx ?_ (by simpa [hridx] using h.ridx_lt) (by simpa using hsmall) (by simpa [hridx] using hwidx)
    cases hp : r.pol with
    | reject =>
      rw [afterWrite_fullf_reject c hp]
      exact Bool.eq_false_iff.2 fun hf => by simpa [hp] using (h.flag hf).1
    | overwrite =>
      refine Bool.eq_false_iff.2 fun hf => ?_
      have hmeet : r.unreadAddr (r.size + 1) = r.unreadAddr 0 := by
        rw [← h.readAddr_eq, Regs.unreadAddr, ← hwidx, (afterWrite_fullf_overwrite c hp).1 hf, hridx, Regs.readAddr]
      exact Nat.succ_ne_zero _ (unreadAddr_inj hsmall h.pos hmeet)
  · cases hp : r.pol with
    | reject =>
      rw [usable_reject hp] at hlt
      omega
    | overwrite =>
      have hcap : r.size + 1 = r.cap.toNat := by
        rw [usable_overwrite hp] at hlt
        omega
      have hmeet : (r.afterWrite c).widx = (r.afterWrite c).ridx := by
        refine BitVec.eq_of_toNat_eq ?_
        rw [hwidx, hcap, Nat.add_mod_right, Nat.mod_eq_of_lt h.ridx_lt, hridx]
      rw [size_of_fullf (by simpa using hp) ((afterWrite_fullf_overwrite c hp).2 hmeet), afterWrite_cap, hcap]

/-- A WRITE on a full OVERWRITE buffer advances both indices, so they meet again. -/
theorem Regs.Live.afterWrite_size_full (hpol : r.pol = .overwrite) (hfull : r.isFull = true) :
    (r.afterWrite c).size = r.cap.toNat := by
  have hf : r.fullf = true := isFull_overwrite hpol ▸ hfull
  have hmeet : (r.afterWrite c).fullf = true := by
    rw [afterWrite_overwrite_full c r hpol hf, (h.flag hf).2]
    exact beq_self_eq_true _
  rw [size_of_fullf (by simpa using hpol) hmeet, afterWrite_cap]

theorem Regs.Live.afterRead_size (hsome : r.isEmpty = false) : (r.afterRead c).size = r.size - 1 := by
  have hpos := h.isEmpty_eq_false_iff.1 hsome
  have hle := h.size_le_cap
  have hridx : (r.afterRead c).ridx.toNat = (r.ridx.toNat + 1) % r.cap.toNat := by
    rw [afterRead_ridx, h.narrow_next, next_eq_mod h.pow]
  refine size_of_widx rfl (hridx ▸ Nat.mod_lt _ h.pos) (by rw [afterRead_cap]; omega) ?_
  rw [afterRead_widx, afterRead_cap, hridx, Nat.mod_add_mod, h.widx_eq]
  congr 1
  omega

end

/-! ### The content after a WRITE and after a READ -/

@[simp] theorem content_length (s : State) : s.content.length = s.regs.size := by simp [State.content]

theorem content_eq_nil_iff (s : State) : s.content = [] ↔ s.regs.size = 0 := by
  rw [← List.length_eq_zero_iff, content_length]

/-- The last byte and those before it. -/
theorem content_eq_append {s : State} {n : Nat} (hsize : s.regs.size = n + 1) :
    s.content = (List.range n).map s.unread ++ [s.unread n] := by
  rw [State.content, hsize, List.range_succ, List.map_append, List.map_singleton]

/-- The oldest byte and the rest, which begins one slot further. -/
theorem content_eq_cons {s : State} {n : Nat} (hsize : s.regs.size = n + 1) :
    s.content = s.unread 0 :: (List.range n).map fun k => s.unread (k + 1) := by
  rw [State.content, hsize, List.range_succ_eq_map, List.map_cons, List.map_map]
  rfl

/-- The state of a WRITE that stored its byte, before it is answered (42 R125). -/
def State.stored (d : Nat) (s : State) : State :=
  (s.putByte s.regs.writeAddr (BitVec.ofNat 8 d)).withRegs (s.regs.afterWrite s.cfg)

@[simp] theorem stored_regs (d : Nat) (s : State) : (s.stored d).regs = s.regs.afterWrite s.cfg := rfl

@[simp] theorem stored_storage (d : Nat) (s : State) :
    (s.stored d).storage = Memory.put s.storage s.regs.writeAddr (BitVec.ofNat 8 d) := rfl

/-- The state of a READ that loaded its byte, before it is answered (42 R126). -/
def State.loaded (s : State) : State := s.withRegs (s.regs.afterRead s.cfg)

@[simp] theorem loaded_regs (s : State) : s.loaded.regs = s.regs.afterRead s.cfg := rfl

theorem stored_unread_new {s : State} {d k : Nat} (haddr : (s.stored d).regs.unreadAddr k = s.regs.writeAddr) :
    (s.stored d).unread k = BitVec.ofNat 8 d := by
  rw [unread_eq, haddr, stored_storage, byteAt_put_same]

theorem stored_unread_old {s : State} {d j k : Nat} (haddr : (s.stored d).regs.unreadAddr k = s.regs.unreadAddr j)
    (hne : s.regs.unreadAddr j ≠ s.regs.writeAddr) : (s.stored d).unread k = s.unread j := by
  rw [unread_eq, haddr, stored_storage, byteAt_put_other _ _ _ _ hne, unread_eq]

section
variable {s : State} (h : s.regs.Live s.cfg)
include h

/-- WRITE appends to a buffer that is not full: its slot is the one after the unread ones (42 R129). -/
theorem Regs.Live.stored_content_free (d : Nat) (hfree : s.regs.isFull = false) :
    (s.stored d).content = s.content ++ [BitVec.ofNat 8 d] := by
  have hlt : s.regs.size < s.regs.cap.toNat := (h.isFull_eq_false_iff.1 hfree).trans_le (usable_le_cap _)
  have haddr : ∀ k, (s.stored d).regs.unreadAddr k = s.regs.unreadAddr k := fun k => by
    simp [Regs.unreadAddr, Regs.slotAddr, afterWrite_ridx_of_free s.cfg hfree]
  have hold : ∀ k < s.regs.size, (s.stored d).unread k = s.unread k := fun k hk =>
    stored_unread_old (haddr k) fun he => hk.ne (unreadAddr_inj (hk.trans hlt) hlt (he.trans h.writeAddr_eq))
  rw [content_eq_append (h.afterWrite_size_free hfree), stored_unread_new ((haddr _).trans h.writeAddr_eq.symm)]
  exact congrArg (· ++ _) (List.map_congr_left fun k hk => hold k (List.mem_range.1 hk))

/-- WRITE on a full OVERWRITE buffer stores over the oldest byte, which the read index leaves behind (42 R129). -/
theorem Regs.Live.stored_content_full (d : Nat) (hpol : s.regs.pol = .overwrite) (hfull : s.regs.isFull = true) :
    (s.stored d).content = s.content.tail ++ [BitVec.ofNat 8 d] := by
  obtain ⟨n, hn⟩ : ∃ n, s.regs.cap.toNat = n + 1 := ⟨_, (Nat.succ_pred_eq_of_pos h.pos).symm⟩
  have hsize : s.regs.size = s.regs.cap.toNat := (h.isFull_iff.1 hfull).trans (usable_overwrite hpol)
  have hwrite : s.regs.writeAddr = s.regs.unreadAddr 0 := by rw [h.writeAddr_eq, hsize, unreadAddr_cap]
  have hridx : (s.stored d).regs.ridx = narrow s.cfg.idxW (s.regs.next s.regs.ridx.toNat) := by
    simp [afterWrite_overwrite_full s.cfg s.regs hpol (isFull_overwrite hpol ▸ hfull)]
  have haddr := h.unreadAddr_advance hridx (afterWrite_base _ _) (afterWrite_cap _ _)
  have hold : ∀ k < n, (s.stored d).unread k = s.unread (k + 1) := fun k hk =>
    stored_unread_old (haddr k) fun he =>
      Nat.succ_ne_zero k (unreadAddr_inj (by omega) h.pos (he.trans hwrite))
  have hnew : (s.stored d).unread n = BitVec.ofNat 8 d :=
    stored_unread_new (by rw [haddr, ← hn, unreadAddr_cap, hwrite])
  rw [content_eq_append ((h.afterWrite_size_full hpol hfull).trans hn), content_eq_cons (hsize.trans hn), List.tail_cons, hnew]
  exact congrArg (· ++ _) (List.map_congr_left fun k hk => hold k (List.mem_range.1 hk))

/-- READ takes the oldest byte off the content, and the byte it loads is that one (42 R129). -/
theorem Regs.Live.loaded_content (hsome : s.regs.isEmpty = false) :
    s.content = Memory.byteAt s.storage s.regs.readAddr :: s.loaded.content := by
  obtain ⟨n, hn⟩ : ∃ n, s.regs.size = n + 1 := ⟨_, (Nat.succ_pred_eq_of_pos (h.isEmpty_eq_false_iff.1 hsome)).symm⟩
  have hsize : s.loaded.regs.size = n := by rw [loaded_regs, h.afterRead_size hsome, hn, Nat.add_sub_cancel]
  have hrest : ∀ k, s.loaded.unread k = s.unread (k + 1) := fun k => by
    rw [unread_eq, loaded_regs, h.unreadAddr_advance (afterRead_ridx _ _) (afterRead_base _ _) (afterRead_cap _ _), unread_eq]
    rfl
  rw [content_eq_cons hn, h.readAddr_eq, State.content, hsize, ← unread_eq]
  exact congrArg _ (List.map_congr_left fun k _ => (hrest k).symm)

end

end Sys2Proof.Machine
end

section
/-! SUPPORT. A bound buffer as a byte queue: each data and query command answers what the queue answers and leaves the queue it
leaves, so a whole sequence does. Then what the queue does over a sequence of transfers, and the provenance of an unread byte. -/
namespace Sys2Proof.Machine

/-! ### The outcomes of a transfer -/

theorem exec_write_stored {s : State} (d : Nat) (hs : s.Inv) (hP : s.issuer = .P) (hl : s.regs.lifecycle = .bound)
    (hfree : s.regs.pol = .reject → s.regs.isFull = false) :
    exec (.write d) s = .next ((s.stored d).respond .ok 0) := by
  rw [exec, execWrite, whenLegal_legal _ (by simp [Instr.legalAt, hP]), whenBound_bound _ hl,
    memWrite_inside _ (hs.shaped.addrs_lt hl).1]
  cases hp : s.regs.pol with
  | reject => simp [hfree hp, State.stored]
  | overwrite => simp [State.stored]

theorem exec_read_loaded {s : State} (hs : s.Inv) (hC : s.issuer = .C) (hl : s.regs.lifecycle = .bound)
    (hsome : s.regs.isEmpty = false) :
    exec .read s = .next (s.loaded.respond .ok ((Memory.byteAt s.storage s.regs.readAddr).setWidth 24)) := by
  rw [exec, execRead, whenLegal_legal _ (by simp [Instr.legalAt, hC]), whenBound_bound _ hl,
    memRead_inside _ (hs.shaped.addrs_lt hl).2]
  simp [hsome, State.loaded]

section
variable {s : State} (hl : s.regs.lifecycle = .bound)
include hl

theorem exec_isEmpty_bound : exec .isEmpty s = .next (s.respond .ok (boolValue s.regs.isEmpty)) :=
  (whenLegal_legal (i := .isEmpty) (s := s) _ rfl).trans (whenBound_bound _ hl)

theorem exec_isFull_bound : exec .isFull s = .next (s.respond .ok (boolValue s.regs.isFull)) :=
  (whenLegal_legal (i := .isFull) (s := s) _ rfl).trans (whenBound_bound _ hl)

theorem exec_size_bound : exec .size s = .next (s.respond .ok (BitVec.ofNat 24 s.regs.size)) :=
  (whenLegal_legal (i := .size) (s := s) _ rfl).trans (whenBound_bound _ hl)

end

/-! ### The queue a bound buffer stands for -/

@[simp] theorem queue_usable (s : State) : s.queue.usable = s.regs.usable := rfl

@[simp] theorem queue_items (s : State) : s.queue.items = s.content := rfl

/-- A state of the same buffer stands for the same queue but for its content. -/
theorem queue_eq_of_content {s t : State} {items : List Byte} (hpol : t.regs.pol = s.regs.pol) (hcap : t.regs.cap = s.regs.cap)
    (hcontent : t.content = items) : t.queue = { s.queue with items := items } := by
  simp only [State.queue, hpol, hcap, hcontent]

theorem Queue.write_free {q : Queue} (v : Byte) (h : q.items.length < q.usable) :
    q.write v = ({ q with items := q.items ++ [v] }, .ok, 0) := if_pos h

theorem Queue.write_reject {q : Queue} (v : Byte) (h : ¬ q.items.length < q.usable) (hpol : q.pol = .reject) :
    q.write v = (q, .bufferFull, 0) := by
  simp [Queue.write, h, hpol]

theorem Queue.write_overwrite {q : Queue} (v : Byte) (h : ¬ q.items.length < q.usable) (hpol : q.pol = .overwrite) :
    q.write v = ({ q with items := q.items.tail ++ [v] }, .ok, 0) := by
  simp [Queue.write, h, hpol]

theorem Queue.read_nil {q : Queue} (h : q.items = []) : q.read = (q, .bufferEmpty, 0) := by simp [Queue.read, h]

theorem Queue.read_cons {q : Queue} {b : Byte} {rest : List Byte} (h : q.items = b :: rest) :
    q.read = ({ q with items := rest }, .ok, b.toNat) := by simp [Queue.read, h]

theorem boolValue_eq_ofNat {b : Bool} {p : Prop} [Decidable p] (h : b = true ↔ p) :
    boolValue b = BitVec.ofNat 24 (if p then 1 else 0) := by
  by_cases hp : p
  · rw [if_pos hp, h.2 hp]
    rfl
  · rw [if_neg hp, Bool.eq_false_iff.2 (mt h.1 hp)]
    rfl

/-- A command of a bound buffer refines a step of its queue: it answers the queue's status and value and stands for the queue's
next state (42 R129; 43 R140 to R143). -/
def State.Refines (s : State) (i : Instr) : Queue × Status × Nat → Prop
  | (q, st, v) => ∃ t, exec i s = .next t ∧ t.queue = q ∧ t.regs.lifecycle = .bound ∧ s.Answered t st (BitVec.ofNat 24 v)

theorem write_refines {s : State} (d : Nat) (hs : s.Inv) (hP : s.issuer = .P) (hl : s.regs.lifecycle = .bound) :
    s.Refines (.write d) (s.queue.write (BitVec.ofNat 8 d)) := by
  have h := hs.live hl
  have hstored : ∀ items, (s.stored d).content = items → (s.regs.pol = .reject → s.regs.isFull = false) →
      s.Refines (.write d) ({ s.queue with items := items }, .ok, 0) := fun items hitems hfree =>
    ⟨_, exec_write_stored d hs hP hl hfree, queue_eq_of_content (afterWrite_pol _ _) (afterWrite_cap _ _) hitems,
      (afterWrite_lifecycle _ _).trans hl, rfl⟩
  cases hfull : s.regs.isFull with
  | false =>
    rw [Queue.write_free _ (by simpa using h.isFull_eq_false_iff.1 hfull)]
    exact hstored _ (h.stored_content_free d hfull) fun _ => hfull
  | true =>
    have hlast : ¬ s.queue.items.length < s.queue.usable := by simp [h.isFull_iff.1 hfull]
    cases hp : s.regs.pol with
    | reject =>
      rw [Queue.write_reject _ hlast hp]
      exact ⟨_, exec_write_full d hP hl hp hfull, rfl, hl, rfl⟩
    | overwrite =>
      rw [Queue.write_overwrite _ hlast hp]
      exact hstored _ (h.stored_content_full d hp hfull) fun hr => by simp [hp] at hr

theorem read_refines {s : State} (hs : s.Inv) (hC : s.issuer = .C) (hl : s.regs.lifecycle = .bound) :
    s.Refines .read s.queue.read := by
  have h := hs.live hl
  cases hempty : s.regs.isEmpty with
  | false =>
    rw [Queue.read_cons (h.loaded_content hempty)]
    refine ⟨_, exec_read_loaded hs hC hl hempty, queue_eq_of_content rfl rfl rfl, hl, ?_⟩
    rw [BitVec.ofNat_toNat]
    rfl
  | true =>
    rw [Queue.read_nil ((content_eq_nil_iff s).2 (h.isEmpty_iff.1 hempty))]
    exact ⟨_, exec_read_empty hC hl hempty, rfl, hl, rfl⟩

theorem exec_refines {s : State} {i : Instr} {r : Queue × Status × Nat} (hs : s.Inv) (hl : s.regs.lifecycle = .bound)
    (hleg : i.legalAt s.issuer = true) (hr : s.queue.perform i = some r) : s.Refines i r := by
  have h := hs.live hl
  cases i <;> cases hr
  case write d => exact write_refines d hs (by simpa [Instr.legalAt] using hleg) hl
  case read => exact read_refines hs (by simpa [Instr.legalAt] using hleg) hl
  case isEmpty =>
    refine ⟨_, exec_isEmpty_bound hl, rfl, hl, ?_⟩
    rw [← boolValue_eq_ofNat (by simpa using h.isEmpty_iff)]
    rfl
  case isFull =>
    refine ⟨_, exec_isFull_bound hl, rfl, hl, ?_⟩
    rw [← boolValue_eq_ofNat (by simpa using h.isFull_iff)]
    rfl
  case size => exact ⟨_, exec_size_bound hl, rfl, hl, by simp [State.Answered]⟩
  case capacity => exact ⟨_, exec_capacity_bound hl, rfl, hl, by simp [State.Answered, State.queue]⟩

/-! ### A sequence of commands -/

theorem performAt_keeps_inv {p : Port} {i : Instr} {s t : State} (h : performAt p i s = .next t) (hs : s.Inv) : t.Inv :=
  exec_keeps_inv (s := { s with issuer := p }) h hs

/-- A sequence that ends begins with a command that is answered. -/
theorem performAll_cons_next {p : Port} {i : Instr} {rest : List (Port × Instr)} {s t : State}
    (h : performAll ((p, i) :: rest) s = .next t) : ∃ u, performAt p i s = .next u ∧ performAll rest u = .next t := by
  rw [performAll] at h
  split at h
  case h_1 u hu => exact ⟨u, hu, h⟩
  case h_2 => cases h
  case h_3 => cases h

theorem performAll_keeps_inv {cmds : List (Port × Instr)} {s t : State} (h : performAll cmds s = .next t) (hs : s.Inv) :
    t.Inv := by
  induction cmds generalizing s with
  | nil =>
    cases h
    exact hs
  | cons c rest ih =>
    obtain ⟨u, hu, hrest⟩ := performAll_cons_next h
    exact ih hrest (performAt_keeps_inv hu hs)

/-- Whether a command acts on a queue does not depend on the queue. -/
theorem Queue.perform_isSome (q q' : Queue) (i : Instr) : (q.perform i).isSome = (q'.perform i).isSome := by
  cases i <;> rfl

theorem Queue.performAll_cons {q q' : Queue} {p : Port} {i : Instr} {st : Status} {v : Nat} (rest : List (Port × Instr))
    (h : q.perform i = some (q', st, v)) :
    q.performAll ((p, i) :: rest) = ((q'.performAll rest).1,
      { port := p, word := responseWord st (BitVec.ofNat 24 v) } :: (q'.performAll rest).2) := by
  simp only [Queue.performAll, h]

/-- A sequence of data and query commands that a bound buffer is given, each at a port that may issue it. -/
def QueueCommands (cmds : List (Port × Instr)) : Prop :=
  ∀ c ∈ cmds, c.2.legalAt c.1 = true ∧ ∀ q : Queue, (q.perform c.2).isSome = true

/-- The refinement of one command, along a sequence (42 R129). -/
theorem performAll_refines {cmds : List (Port × Instr)} {s : State} (hs : s.Inv) (hl : s.regs.lifecycle = .bound)
    (hcmds : QueueCommands cmds) :
    ∃ t, performAll cmds s = .next t ∧ t.regs.lifecycle = .bound ∧ t.queue = (s.queue.performAll cmds).1 ∧
      t.responses = (s.queue.performAll cmds).2.reverse ++ s.responses := by
  induction cmds generalizing s with
  | nil => exact ⟨s, rfl, hl, rfl, rfl⟩
  | cons c rest ih =>
    obtain ⟨p, i⟩ := c
    obtain ⟨⟨hleg, hsome⟩, hrest⟩ := List.forall_mem_cons.1 hcmds
    obtain ⟨⟨q', st, v⟩, hr⟩ := Option.isSome_iff_exists.1 (hsome s.queue)
    obtain ⟨u, hexec, hqueue, hlu, hanswer⟩ := exec_refines (s := { s with issuer := p }) hs hl hleg hr
    obtain ⟨t, hall, hlt, htq, htr⟩ := ih (performAt_keeps_inv hexec hs) hlu hrest
    refine ⟨t, (performAll_cons rest hexec).trans hall, hlt, ?_, ?_⟩
    · rw [htq, hqueue, Queue.performAll_cons rest hr]
    · rw [htr, hqueue, Queue.performAll_cons rest hr, List.reverse_cons, List.append_assoc, hanswer]
      rfl

/-! ### The statements -/

/-- Settles O25, by the refinement of each command. -/
theorem commandsRefineAByteQueue : Obligations.CommandsRefineAByteQueue := by
  intro s cmds hs hl hcmds
  have hqueue : QueueCommands cmds := fun c hc =>
    ⟨(hcmds c hc).1, fun q => Queue.perform_isSome q s.queue c.2 ▸ (hcmds c hc).2⟩
  obtain ⟨t, hall, -, hrefines⟩ := performAll_refines hs hl hqueue
  exact ⟨t, hall, hrefines⟩

end Sys2Proof.Machine
end

section
/-! SUPPORT. What a byte queue does over a sequence of transfers, where an unread byte comes from, and the fill states. Then the
statements of data transfer (42). -/
namespace Sys2Proof.Machine

/-! ### Sequences of transfers on a queue -/

theorem isTransfer_iff (c : Port × Instr) : isTransfer c = true ↔ (∃ d, c = (.P, .write d)) ∨ c = (.C, .read) := by
  constructor
  · intro h
    unfold isTransfer at h
    split at h
    case h_1 d => exact .inl ⟨d, rfl⟩
    case h_2 => exact .inr rfl
    case h_3 => cases h
  · rintro (⟨d, rfl⟩ | rfl) <;> rfl

theorem queueCommands_of_transfers {cmds : List (Port × Instr)} (h : ∀ c ∈ cmds, isTransfer c = true) :
    QueueCommands cmds := by
  intro c hc
  rcases (isTransfer_iff c).1 (h c hc) with ⟨d, rfl⟩ | rfl <;> exact ⟨rfl, fun _ => rfl⟩

theorem okCount_cons (port p : Port) (st : Status) (v : Reg) (rs : List Response) :
    okCount port ({ port := p, word := responseWord st v } :: rs) = okCount port rs + if p = port ∧ st = .ok then 1 else 0 := by
  have hst : statusCode st = statusCode .ok ↔ st = .ok := ⟨statusCode_injective, congrArg statusCode⟩
  simp [okCount, List.countP_cons, hst]

/-- An answer OK counts at its port. -/
theorem okCount_ok (p : Port) (v : Reg) (rs : List Response) :
    okCount p ({ port := p, word := responseWord .ok v } :: rs) = okCount p rs + 1 :=
  (okCount_cons p p .ok v rs).trans (by rw [if_pos ⟨rfl, rfl⟩])

/-- An answer at another port or with another status does not count. -/
theorem okCount_other {port p : Port} {st : Status} (h : ¬ (p = port ∧ st = .ok)) (v : Reg) (rs : List Response) :
    okCount port ({ port := p, word := responseWord st v } :: rs) = okCount port rs :=
  (okCount_cons port p st v rs).trans (by rw [if_neg h, Nat.add_zero])

theorem okCount_reverse (port : Port) (rs : List Response) : okCount port rs.reverse = okCount port rs := List.countP_reverse

theorem writtenBytes_write (p : Port) (d : Nat) (rest : List (Port × Instr)) :
    writtenBytes ((p, .write d) :: rest) = BitVec.ofNat 8 d :: writtenBytes rest := rfl

theorem writtenBytes_read (p : Port) (rest : List (Port × Instr)) : writtenBytes ((p, .read) :: rest) = writtenBytes rest := rfl

theorem readCount_write (p : Port) (d : Nat) (rest : List (Port × Instr)) :
    readCount ((p, .write d) :: rest) = readCount rest := by
  cases p <;> simp [readCount]

theorem readCount_read (rest : List (Port × Instr)) : readCount ((.C, .read) :: rest) = readCount rest + 1 := by
  simp [readCount]

section
variable {q : Queue}

theorem Queue.perform_write_free (d : Nat) (h : q.items.length < q.usable) :
    q.perform (.write d) = some ({ q with items := q.items ++ [BitVec.ofNat 8 d] }, .ok, 0) :=
  congrArg some (Queue.write_free _ h)

theorem Queue.perform_read_nil (h : q.items = []) : q.perform .read = some (q, .bufferEmpty, 0) :=
  congrArg some (Queue.read_nil h)

theorem Queue.perform_read_cons {b : Byte} {rest : List Byte} (h : q.items = b :: rest) :
    q.perform .read = some ({ q with items := rest }, .ok, b.toNat) :=
  congrArg some (Queue.read_cons h)

end

/-- As long as there is room for every byte still to be written and no READ finds the queue empty, every WRITE is answered OK and
the READs return what is in the queue and then what is written, in order (42 R130). -/
theorem Queue.performAll_fifo {cmds : List (Port × Instr)} {q : Queue} (hcmds : ∀ c ∈ cmds, isTransfer c = true)
    (hroom : q.items.length + (writtenBytes cmds).length ≤ q.usable)
    (hsome : ∀ r ∈ (q.performAll cmds).2, r.word ≠ responseWord .bufferEmpty 0) :
    (∀ r ∈ (q.performAll cmds).2, r.port = .P → r.word = responseWord .ok 0) ∧
    (q.performAll cmds).2.filter (fun r => r.port == .C) =
      ((q.items ++ writtenBytes cmds).take (readCount cmds)).map fun b =>
        { port := .C, word := responseWord .ok (b.setWidth 24) } := by
  induction cmds generalizing q with
  | nil => exact ⟨nofun, by simp [Queue.performAll, readCount]⟩
  | cons c rest ih =>
    obtain ⟨hc, hrest⟩ := List.forall_mem_cons.1 hcmds
    rcases (isTransfer_iff c).1 hc with ⟨d, rfl⟩ | rfl
    · rw [writtenBytes_write, List.length_cons] at hroom
      have hroomRest : (q.items ++ [BitVec.ofNat 8 d]).length + (writtenBytes rest).length ≤ q.usable := by
        rw [List.length_append, List.length_singleton]
        omega
      rw [Queue.performAll_cons rest (Queue.perform_write_free d (by omega))] at hsome ⊢
      obtain ⟨hok, hread⟩ := ih hrest hroomRest (List.forall_mem_cons.1 hsome).2
      refine ⟨List.forall_mem_cons.2 ⟨fun _ => rfl, hok⟩, ?_⟩
      rw [writtenBytes_write, readCount_write, List.append_cons q.items _ (writtenBytes rest)]
      exact hread
    · rw [writtenBytes_read] at hroom ⊢
      cases hitems : q.items with
      | nil =>
        rw [Queue.performAll_cons rest (Queue.perform_read_nil hitems)] at hsome
        exact absurd rfl (List.forall_mem_cons.1 hsome).1
      | cons b items =>
        have hroomRest : items.length + (writtenBytes rest).length ≤ q.usable := by
          rw [hitems, List.length_cons] at hroom
          omega
        rw [Queue.performAll_cons rest (Queue.perform_read_cons hitems)] at hsome ⊢
        obtain ⟨hok, hread⟩ := ih hrest hroomRest (List.forall_mem_cons.1 hsome).2
        refine ⟨List.forall_mem_cons.2 ⟨nofun, hok⟩, ?_⟩
        rw [readCount_read, List.cons_append, List.take_succ_cons, List.map_cons, ← hread, ← BitVec.ofNat_toNat]
        rfl

/-- As long as no WRITE finds the queue full, each answer OK is one byte more or one byte less (42 R131). -/
theorem Queue.length_performAll {cmds : List (Port × Instr)} {q : Queue} (hcmds : ∀ c ∈ cmds, isTransfer c = true)
    (hroom : ∀ before d after, cmds = before ++ (Port.P, Instr.write d) :: after →
      (q.performAll before).1.items.length < (q.performAll before).1.usable) :
    (q.performAll cmds).1.items.length + okCount .C (q.performAll cmds).2 =
      q.items.length + okCount .P (q.performAll cmds).2 := by
  induction cmds generalizing q with
  | nil => rfl
  | cons c rest ih =>
    obtain ⟨p, i⟩ := c
    obtain ⟨hc, hrest⟩ := List.forall_mem_cons.1 hcmds
    have hlater : ∀ {q' st v}, q.perform i = some (q', st, v) → (q'.performAll rest).1.items.length +
        okCount .C (q'.performAll rest).2 = q'.items.length + okCount .P (q'.performAll rest).2 := fun {q' st v} hq =>
      ih hrest fun before d after he => by
        have := hroom ((p, i) :: before) d after (by rw [he, List.cons_append])
        rwa [Queue.performAll_cons before hq] at this
    rcases (isTransfer_iff _).1 hc with ⟨d, he⟩ | he <;> cases he
    · have hlt : q.items.length < q.usable := hroom [] d rest rfl
      have hwrite := Queue.perform_write_free d hlt
      have hcount := hlater hwrite
      rw [Queue.performAll_cons rest hwrite, okCount_ok, okCount_other (by decide), hcount, List.length_append,
        List.length_singleton, Nat.add_right_comm, Nat.add_assoc]
    · cases hitems : q.items with
      | nil =>
        have hread := Queue.perform_read_nil hitems
        rw [Queue.performAll_cons rest hread, okCount_other (by decide), okCount_other (by decide), hlater hread, hitems]
      | cons b items =>
        have hread := Queue.perform_read_cons hitems
        rw [Queue.performAll_cons rest hread, okCount_ok, okCount_other (by decide), ← Nat.add_assoc, hlater hread,
          List.length_cons, Nat.add_right_comm]

/-! ### Where an unread byte comes from -/

/-- While not BOUND the registers are clear, so there is no content (10 R37). -/
theorem content_eq_nil_of_unbound {s : State} (hs : s.Inv) (hl : s.regs.lifecycle ≠ .bound) : s.content = [] := by
  obtain ⟨-, ⟨hclear, -, -, -⟩, -, -⟩ := hs
  obtain ⟨-, -, hpol, -, hridx, hwidx, -⟩ := hclear hl
  rw [content_eq_nil_iff, Regs.size, hpol, hridx, hwidx]
  exact dist_self _ _

/-- The commands that begin a buffer anew: RESET and INIT. -/
def Restarts (i : Instr) : Prop := i = .reset ∨ ∃ pol mode cap, i = .init pol mode cap

/-- A command that begins a buffer anew leaves no content when it is answered OK (42 R129). -/
theorem restart_content {i : Instr} {s t : State} (hi : Restarts i) (h : exec i s = .next t) (hok : s.Answered t .ok 0) :
    t.content = [] := by
  rw [content_eq_nil_iff]
  rcases hi with rfl | ⟨pol, mode, cap, rfl⟩
  · exact (exec_reset_fresh h hok).size
  · exact (exec_init_fresh h hok).size

/-- Only under OVERWRITE does a WRITE on a full buffer store its byte. -/
theorem overwrite_of_isFull {r : Regs} (hfree : r.pol = .reject → r.isFull = false) (hfull : r.isFull = true) :
    r.pol = .overwrite := by
  cases hp : r.pol with
  | reject => simp [hfree hp] at hfull
  | overwrite => rfl

/-- A stored byte joins the content, which may lose its oldest byte for it. -/
theorem mem_stored_content {s : State} {d : Nat} {b : Byte} (h : s.regs.Live s.cfg)
    (hfree : s.regs.pol = .reject → s.regs.isFull = false) (hb : b ∈ (s.stored d).content) :
    b ∈ s.content ∨ b = BitVec.ofNat 8 d := by
  cases hfull : s.regs.isFull with
  | false =>
    rw [h.stored_content_free d hfull] at hb
    simpa using hb
  | true =>
    rw [h.stored_content_full d (overwrite_of_isFull hfree hfull) hfull] at hb
    exact (List.mem_append.1 hb).imp List.mem_of_mem_tail List.mem_singleton.1

/-- A byte of the content was there before the command, or the command is the WRITE that stored it. -/
theorem mem_content_cases {i : Instr} {s t : State} {b : Byte} (hs : s.Inv) (h : exec i s = .next t) (hb : b ∈ t.content) :
    b ∈ s.content ∨ ∃ d, i = .write d ∧ s.issuer = .P ∧ s.Answered t .ok 0 ∧ b = BitVec.ofNat 8 d := by
  have ht := exec_keeps_inv h hs
  have hgone : t.content = [] → b ∈ s.content := fun hnil => absurd (hnil ▸ hb) List.not_mem_nil
  cases hleg : i.legalAt s.issuer with
  | false =>
    rw [exec_illegal hleg] at h
    cases h
    exact .inl hb
  | true =>
    cases h ▸ exec_performs i s with
    | refused | queried | nothingToRelease | setbase => exact .inl hb
    | initRefused | released => exact .inl (hgone (content_eq_nil_of_unbound ht nofun))
    | initBound => exact .inl (hgone ((content_eq_nil_iff _).2 (boundTo_fresh _ _ _ _ _).size))
    | emptied hl => exact .inl (hgone ((content_eq_nil_iff _).2 (emptied_fresh hl).size))
    | stored d hl hfree =>
      exact (mem_stored_content (hs.live hl) hfree hb).imp_right fun he => ⟨d, rfl, beq_iff_eq.1 hleg, rfl, he⟩
    | loaded hl hsome =>
      refine .inl ?_
      rw [(hs.live hl).loaded_content hsome]
      exact List.mem_cons_of_mem _ hb

/-- Over the sequence no INIT and no RESET is answered OK where it stands, so any buffer bound at `s` is not begun anew. -/
def State.KeepsBuffer (s : State) (cmds : List (Port × Instr)) : Prop :=
  ∀ (mid rest : List (Port × Instr)) (p : Port) (i : Instr) (x y : State), cmds = mid ++ (p, i) :: rest → Restarts i →
    performAll mid s = .next x → performAt p i x = .next y →
    y.responses ≠ { port := p, word := responseWord .ok 0 } :: x.responses

/-- The sequence holds a WRITE of the byte at port P that is answered OK where it stands, and no buffer is begun anew after it. -/
def State.StoresByte (s : State) (cmds : List (Port × Instr)) (b : Byte) : Prop :=
  ∃ (before after : List (Port × Instr)) (d : Nat) (m w : State),
    cmds = before ++ (Port.P, Instr.write d) :: after ∧ performAll before s = .next m ∧
    performAt .P (.write d) m = .next w ∧ w.responses = { port := .P, word := responseWord .ok 0 } :: m.responses ∧
    b = BitVec.ofNat 8 d ∧ w.KeepsBuffer after

section
variable {p : Port} {i : Instr} {s u : State} {rest : List (Port × Instr)} (h : performAt p i s = .next u)
include h

theorem State.KeepsBuffer.cons (hrest : u.KeepsBuffer rest)
    (hi : Restarts i → u.responses ≠ { port := p, word := responseWord .ok 0 } :: s.responses) :
    s.KeepsBuffer ((p, i) :: rest) := by
  intro mid rest' p' i' x y he hrestart hmid hat
  cases mid with
  | nil =>
    cases he
    cases hmid
    cases h.symm.trans hat
    exact hi hrestart
  | cons c mid =>
    obtain ⟨rfl, rfl⟩ := List.cons.inj he
    obtain ⟨u', hu', hmid'⟩ := performAll_cons_next hmid
    cases h.symm.trans hu'
    exact hrest mid rest' p' i' x y rfl hrestart hmid' hat

theorem State.StoresByte.cons {b : Byte} (hrest : u.StoresByte rest b) : s.StoresByte ((p, i) :: rest) b := by
  obtain ⟨before, after, d, m, w, rfl, hbefore, hwrite⟩ := hrest
  exact ⟨(p, i) :: before, after, d, m, w, rfl, (performAll_cons before h).trans hbefore, hwrite⟩

end

/-- A byte of the content after a sequence was there before it and the buffer was not begun anew, or a WRITE of the
sequence stored it and the buffer was not begun anew since (42 R132). -/
theorem mem_content_performAll {cmds : List (Port × Instr)} {s t : State} {b : Byte} (hs : s.Inv)
    (h : performAll cmds s = .next t) (hb : b ∈ t.content) :
    (b ∈ s.content ∧ s.KeepsBuffer cmds) ∨ s.StoresByte cmds b := by
  induction cmds generalizing s with
  | nil =>
    cases h
    exact .inl ⟨hb, fun mid rest p i _ _ he => by simp at he⟩
  | cons c rest ih =>
    obtain ⟨p, i⟩ := c
    obtain ⟨u, hu, hrest⟩ := performAll_cons_next h
    rcases ih (performAt_keeps_inv hu hs) hrest with ⟨hmem, hkeeps⟩ | hstores
    · rcases mem_content_cases (s := { s with issuer := p }) hs hu hmem with hold | ⟨d, rfl, rfl, hok, rfl⟩
      · refine .inl ⟨hold, hkeeps.cons hu fun hi hok => ?_⟩
        exact List.not_mem_nil (restart_content hi hu hok ▸ hmem)
      · exact .inr ⟨[], rest, d, s, u, rfl, rfl, hu, hok, rfl, hkeeps⟩
    · exact .inr (hstores.cons hu)

/-- A READ answered OK returns a byte of the content (42 R126). -/
theorem read_mem_content {s t : State} {v : Reg} (hs : s.Inv) (h : exec .read s = .next t) (hok : s.Answered t .ok v) :
    ∃ b ∈ s.content, v = b.setWidth 24 := by
  cases h ▸ exec_performs .read s with
  | refused _ _ hst =>
    obtain ⟨hword, -⟩ := List.cons.inj hok
    exact absurd (responseWord_injective (Response.mk.inj hword).2).1 hst
  | queried _ _ hi => simp at hi
  | loaded hl hsome =>
    obtain ⟨hword, -⟩ := List.cons.inj hok
    refine ⟨_, ?_, (responseWord_injective (Response.mk.inj hword).2).2.symm⟩
    rw [(hs.live hl).loaded_content hsome]
    exact List.mem_cons_self

/-! ### The fill states -/

theorem fill_eq_empty_iff (r : Regs) : r.fill = .empty ↔ r.isEmpty = true := by
  cases hempty : r.isEmpty with
  | true => simp [Regs.fill, hempty]
  | false => cases hfull : r.isFull <;> simp [Regs.fill, hempty, hfull]

theorem isFull_of_fill {r : Regs} (h : r.fill = .full) : r.isFull = true := by
  unfold Regs.fill at h
  split at h
  · cases h
  · split at h
    · assumption
    · cases h

/-- With a byte unread the fill state is Partial until the size is usable() (40 R106). -/
theorem Regs.Live.fill_of_pos {c : Config} {r : Regs} (h : r.Live c) (hpos : 0 < r.size) :
    r.fill = if r.size < r.usable then .partly else .full := by
  rw [Regs.fill, if_neg (Bool.eq_false_iff.1 (h.isEmpty_eq_false_iff.2 hpos))]
  cases hfull : r.isFull with
  | false => exact (if_pos (h.isFull_eq_false_iff.1 hfull)).symm
  | true => exact (if_neg (h.isFull_iff.1 hfull).not_lt).symm

/-- A stored byte is unread. -/
theorem Regs.Live.afterWrite_size_pos {c : Config} {r : Regs} (h : r.Live c) (hfree : r.pol = .reject → r.isFull = false) :
    0 < (r.afterWrite c).size := by
  cases hfull : r.isFull with
  | false => exact (h.afterWrite_size_free hfull) ▸ Nat.succ_pos _
  | true => exact (h.afterWrite_size_full (overwrite_of_isFull hfree hfull) hfull) ▸ h.pos

theorem State.Inv.afterWrite_live {s : State} (hs : s.Inv) (hl : s.regs.lifecycle = .bound) :
    (s.regs.afterWrite s.cfg).Live s.cfg :=
  Regs.Inv.live (afterWrite_ok hl hs.regs_ok).1 (by simpa using hl)

theorem State.Inv.afterRead_live {s : State} (hs : s.Inv) (hl : s.regs.lifecycle = .bound) :
    (s.regs.afterRead s.cfg).Live s.cfg :=
  Regs.Inv.live (afterRead_ok hl hs.regs_ok).1 hl

/-! ### The statements -/

/-- Settles O24: a WRITE that stores appends, to the tail where it drops the oldest byte; READ takes the head; a fresh buffer has
no content; and the content depends on storage and on registers that a query and SETBASE leave. -/
theorem commandsActOnContentAsFifo : Obligations.CommandsActOnContentAsFifo := by
  refine fun s hs => ⟨fun hl hP d _ => ⟨fun hfree => ?_, fun hfull hpol => ?_, fun hfull hpol => ?_⟩,
    fun hl hC => ⟨fun b rest hcontent => ?_, fun hcontent => ?_⟩, fun t h hok => restart_content (.inl rfl) h hok,
    fun pol mode cap t h hok => restart_content (.inr ⟨pol, mode, cap, rfl⟩) h hok, fun i t hi h => ?_⟩
  · exact ⟨_, exec_write_stored d hs hP hl fun _ => hfree, rfl, (hs.live hl).stored_content_free d hfree⟩
  · have hlive := hs.live hl
    have hexec := exec_write_stored d hs hP hl fun hr => by simp [hpol] at hr
    refine ⟨_, hexec, rfl, hlive.stored_content_full d hpol hfull, ?_, ?_⟩
    · rw [content_length]
      exact hlive.afterWrite_size_full hpol hfull
    · rw [content_length, hlive.isFull_iff.1 hfull, usable_overwrite hpol]
  · exact ⟨_, exec_write_full d hP hl hpol hfull, rfl, rfl, rfl⟩
  · have hlive := hs.live hl
    have hsome : s.regs.isEmpty = false := by
      rw [hlive.isEmpty_eq_false_iff, ← content_length, hcontent]
      exact Nat.succ_pos _
    obtain ⟨rfl, rfl⟩ := List.cons.inj ((hlive.loaded_content hsome).symm.trans hcontent)
    exact ⟨_, exec_read_loaded hs hC hl hsome, rfl, rfl⟩
  · exact ⟨_, exec_read_empty hC hl ((hs.live hl).isEmpty_iff.2 ((content_eq_nil_iff s).1 hcontent)), rfl, hcontent⟩
  · cases h ▸ exec_performs i s with
    | refused | queried | nothingToRelease | setbase => rfl
    | _ => simp at hi

/-- Settles O26: the buffer answers as its queue, which starts empty and has room for every byte. -/
theorem transfersReturnBytesInOrder : Obligations.TransfersReturnBytesInOrder := by
  intro s cmds hs hl hempty hcmds hroom
  obtain ⟨t, hall, -, -, hresponses⟩ := performAll_refines hs hl (queueCommands_of_transfers hcmds)
  have hitems : s.queue.items = [] := (content_eq_nil_iff s).2 hempty
  refine ⟨t, _, hall, hresponses, fun hsome => ?_⟩
  obtain ⟨hok, hread⟩ := Queue.performAll_fifo (q := s.queue) hcmds (by simpa [hempty] using hroom) (by simpa using hsome)
  rw [List.reverse_reverse, hread, hitems]
  exact ⟨by simpa using hok, rfl⟩

/-- Settles O27: the buffer answers as its queue, whose length each answer OK moves by one, as no WRITE drops a byte. -/
theorem sizeCountsWritesLessReads : Obligations.SizeCountsWritesLessReads := by
  intro s t cmds new hs hl hempty hcmds hfree hall hnew
  obtain ⟨t', hall', -, hqueue, hresponses⟩ := performAll_refines hs hl (queueCommands_of_transfers hcmds)
  cases hall.symm.trans hall'
  obtain rfl := List.append_cancel_right (hnew.symm.trans hresponses)
  have hitems : s.queue.items = [] := (content_eq_nil_iff s).2 hempty
  have hroom : ∀ before d after, cmds = before ++ (Port.P, Instr.write d) :: after →
      (s.queue.performAll before).1.items.length < (s.queue.performAll before).1.usable := fun before d after he => by
    have hbefore : ∀ c ∈ before, isTransfer c = true := fun c hc => hcmds c (he ▸ List.mem_append_left _ hc)
    obtain ⟨u, hu, hlu, hqu, -⟩ := performAll_refines hs hl (queueCommands_of_transfers hbefore)
    have hlive := (performAll_keeps_inv hu hs).live hlu
    rw [← hqu, queue_items, content_length, queue_usable]
    exact hlive.isFull_eq_false_iff.1 (hfree before d after u he hu)
  have hcount := Queue.length_performAll hcmds hroom
  rw [← hqueue, hitems] at hcount
  simpa [okCount_reverse] using hcount

/-- Settles O28: the byte returned is one of the content, and at the start there is none. -/
theorem readsReturnOnlyWrittenBytes : Obligations.ReadsReturnOnlyWrittenBytes := by
  intro s t u cmds v hs hempty hall hread hok
  have hnone : s.content = [] := by
    by_cases hl : s.regs.lifecycle = .bound
    · exact (content_eq_nil_iff s).2 (hempty hl)
    · exact content_eq_nil_of_unbound hs hl
  have ht : t.Inv := performAll_keeps_inv hall hs
  obtain ⟨b, hb, rfl⟩ := read_mem_content (s := { t with issuer := .C }) ht hread hok
  rcases mem_content_performAll hs hall hb with ⟨hmem, -⟩ | hstores
  · exact absurd (hnone ▸ hmem) List.not_mem_nil
  · obtain ⟨before, after, d, m, w, he, hbefore, hwrite, hanswer, rfl, hkeeps⟩ := hstores
    exact ⟨before, after, d, m, w, he, hbefore, hwrite, hanswer, rfl, hkeeps⟩

/-- Settles O48, by what the full flag and the distance say of the size. -/
theorem writeSlotFollowsTheNewestByte : Obligations.WriteSlotFollowsTheNewestByte :=
  fun _ _ h hl => (Regs.Inv.live h hl).widx_eq

/-- Settles O22: the checks of WRITE in their order, and the registers of a stored byte under each policy. -/
theorem writeAppendsOrRefuses : Obligations.WriteAppendsOrRefuses := by
  intro s d hs hd
  have hbyte : (BitVec.ofNat 8 d).toNat = d := by rw [BitVec.toNat_ofNat, Nat.mod_eq_of_lt hd]
  have hstored : (Memory.byteAt (s.stored d).storage s.regs.writeAddr).toNat = d := by
    rw [stored_storage, byteAt_put_same, hbyte]
  have hwidx : s.regs.lifecycle = .bound → (s.stored d).regs.widx.toNat = s.regs.next s.regs.widx.toNat := fun hl => by
    rw [stored_regs, afterWrite_widx, (hs.live hl).narrow_next]
  refine ⟨rfl, fun hP => exec_illegal (beq_false_of_ne hP), fun hP => exec_faulted (beq_iff_eq.2 hP),
    fun hP hl => exec_notBound (beq_iff_eq.2 hP) hl (.inr (.inl ⟨d, rfl⟩)),
    fun hP hl hpol hnext => exec_write_full d hP hl hpol ((isFull_reject hpol).2 hnext),
    fun hP hl hpol hnext => ?_, fun hP hl hpol => ?_⟩
  · have hfree : s.regs.isFull = false := Bool.eq_false_iff.2 fun hfull => hnext ((isFull_reject hpol).1 hfull)
    refine ⟨_, exec_write_stored d hs hP hl fun _ => hfree, hstored, hwidx hl, ?_, rfl⟩
    rw [respond_regs, stored_regs, afterWrite_reject _ _ hpol]
    rfl
  · refine ⟨_, exec_write_stored d hs hP hl fun hr => by simp [hpol] at hr, hstored, hwidx hl, ?_,
      afterWrite_fullf_overwrite _ hpol, afterWrite_frame _ _, rfl⟩
    rw [respond_regs, stored_regs]
    cases hf : s.regs.fullf with
    | false => simp [afterWrite_overwrite_free _ _ hpol hf]
    | true => simp [afterWrite_overwrite_full _ _ hpol hf, (hs.live hl).narrow_next]

/-- Settles O23: the checks of READ in their order; the byte at BASE + RIDX is loaded, and only RIDX and FULLF are written. -/
theorem readReturnsTheOldestByte : Obligations.ReadReturnsTheOldestByte := by
  refine ⟨rfl, fun s hs => ⟨fun hC => exec_illegal (beq_false_of_ne hC), fun hC => exec_faulted (beq_iff_eq.2 hC),
    fun hC hl => exec_notBound (beq_iff_eq.2 hC) hl (.inr (.inr (.inl rfl))), fun hC hl hempty => ?_, fun hC hl hsome => ?_⟩⟩
  · exact exec_read_empty hC hl ((isEmpty_iff (hs.live hl).flag).2 hempty)
  · have hlive := hs.live hl
    have hsome' : s.regs.isEmpty = false := Bool.eq_false_iff.2 fun hempty => hsome ((isEmpty_iff hlive.flag).1 hempty)
    exact ⟨_, _, exec_read_loaded hs hC hl hsome', rfl, BitVec.toNat_setWidth_of_le (by decide), hlive.narrow_next _,
      rfl, rfl⟩

/-- Settles O29: the fill state is read off the size, which a stored byte makes positive and a loaded byte lowers. -/
theorem fillStateTransitions : Obligations.FillStateTransitions := by
  intro s t hs hl
  have hlive := hs.live hl
  refine ⟨fun d hP h => ⟨fun _ hok => ?_, fun hfill hpol => ?_, fun hfill hpol => ?_⟩,
    fun hC h => ⟨fun hfill => ?_, fun hfill => ?_⟩⟩
  · have hfree : s.regs.pol = .reject → s.regs.isFull = false := fun hpol => Bool.eq_false_iff.2 fun hfull => by
      cases h.symm.trans (exec_write_full d hP hl hpol hfull)
      exact not_answered_ok (by decide) rfl hok
    cases h.symm.trans (exec_write_stored d hs hP hl hfree)
    exact (hs.afterWrite_live hl).fill_of_pos (hlive.afterWrite_size_pos hfree)
  · have hfull := isFull_of_fill hfill
    have hsize := hlive.afterWrite_size_full hpol hfull
    cases h.symm.trans (exec_write_stored d hs hP hl fun hr => by simp [hpol] at hr)
    refine ⟨rfl, ((hs.afterWrite_live hl).fill_of_pos (hsize ▸ hlive.pos)).trans (if_neg ?_)⟩
    rw [hsize, usable_overwrite (by simpa using hpol), afterWrite_cap]
    exact lt_irrefl _
  · cases h.symm.trans (exec_write_full d hP hl hpol (isFull_of_fill hfill))
    exact ⟨rfl, hfill⟩
  · have hsome : s.regs.isEmpty = false := Bool.eq_false_iff.2 fun hempty => hfill ((fill_eq_empty_iff _).2 hempty)
    have hlt : (s.regs.afterRead s.cfg).size < (s.regs.afterRead s.cfg).usable := by
      rw [hlive.afterRead_size hsome, usable_congr (afterRead_pol _ _) (afterRead_cap _ _)]
      have := hlive.isEmpty_eq_false_iff.1 hsome
      have := hlive.size_le
      omega
    have hafter := hs.afterRead_live hl
    cases h.symm.trans (exec_read_loaded hs hC hl hsome)
    rw [respond_regs, loaded_regs]
    split
    · rw [hafter.fill_of_pos ‹_›, if_pos hlt]
    · exact (fill_eq_empty_iff _).2 (hafter.isEmpty_iff.2 (by omega))
  · have hempty := (fill_eq_empty_iff _).1 hfill
    cases h.symm.trans (exec_read_empty hC hl hempty)
    exact ⟨rfl, hfill⟩

end Sys2Proof.Machine
end

section
/-! SUPPORT. The queries (43): the value each reads off the registers, that the value does not depend on CFG_BASE, and that a sequence
of queries and SETBASEs keeps every other register. Then the statements of the queries. -/
namespace Sys2Proof.Machine

/-! ### One query -/

/-- The four query commands (43 R140 to R143). -/
abbrev IsQuery (q : Instr) : Prop := q = .isEmpty ∨ q = .isFull ∨ q = .size ∨ q = .capacity

/-- The VALUE that a query of a bound buffer is answered with (43 R140 to R143), 0 for a command that is no query. -/
def Regs.queryValue (r : Regs) : Instr → Reg
  | .isEmpty => boolValue r.isEmpty
  | .isFull => boolValue r.isFull
  | .size => BitVec.ofNat 24 r.size
  | .capacity => r.cap
  | .setbase _ | .init _ _ _ | .deinit | .reset | .write _ | .read => 0

/-- The registers are the same but for CFG_BASE, which only the next INIT reads (10 R28). -/
def Regs.SameButCfgBase (r r' : Regs) : Prop := r' = { r with cfgBase := r'.cfgBase }

theorem Regs.SameButCfgBase.trans {r r' r'' : Regs} (h : r.SameButCfgBase r') (h' : r'.SameButCfgBase r'') :
    r.SameButCfgBase r'' := by
  unfold Regs.SameButCfgBase at *
  rw [h', h]

theorem Regs.SameButCfgBase.lifecycle {r r' : Regs} (h : r.SameButCfgBase r') : r'.lifecycle = r.lifecycle := by
  rw [h]

/-- No query reads CFG_BASE. -/
theorem Regs.SameButCfgBase.queryValue {r r' : Regs} (h : r.SameButCfgBase r') (q : Instr) :
    r'.queryValue q = r.queryValue q := by
  rw [h]
  cases q <;> rfl

section
variable {q : Instr} (hq : IsQuery q)
include hq

/-- Every port may issue a query (30 R79). -/
theorem IsQuery.legalAt (p : Port) : q.legalAt p = true := by
  rcases hq with rfl | rfl | rfl | rfl <;> rfl

theorem IsQuery.exec_faulted {s : State} (hl : s.regs.lifecycle = .faulted) : exec q s = .next (s.respond .faulted 0) :=
  Machine.exec_faulted (hq.legalAt _) hl

theorem IsQuery.exec_unbound {s : State} (hl : s.regs.lifecycle = .unbound) : exec q s = .next (s.respond .notBound 0) :=
  exec_notBound (hq.legalAt _) hl (.inr (.inr (.inr hq)))

theorem IsQuery.exec_bound {s : State} (hl : s.regs.lifecycle = .bound) :
    exec q s = .next (s.respond .ok (s.regs.queryValue q)) := by
  rcases hq with rfl | rfl | rfl | rfl
  · exact exec_isEmpty_bound hl
  · exact exec_isFull_bound hl
  · exact exec_size_bound hl
  · exact exec_capacity_bound hl

/-- A query gives one response, whose status and value are the same in every state with the same registers but for CFG_BASE. -/
theorem IsQuery.exec_eq (s : State) :
    ∃ st v, ∀ u : State, s.regs.SameButCfgBase u.regs → exec q u = .next (u.respond st v) := by
  cases hl : s.regs.lifecycle with
  | faulted => exact ⟨_, _, fun u hu => hq.exec_faulted (hu.lifecycle.trans hl)⟩
  | unbound => exact ⟨_, _, fun u hu => hq.exec_unbound (hu.lifecycle.trans hl)⟩
  | bound => exact ⟨_, _, fun u hu => hu.queryValue q ▸ hq.exec_bound (hu.lifecycle.trans hl)⟩

theorem IsQuery.keeps_regs {s t : State} (h : exec q s = .next t) : t.regs = s.regs := by
  obtain ⟨st, v, hanswer⟩ := hq.exec_eq s
  cases h.symm.trans (hanswer s rfl)
  rfl

theorem IsQuery.ne_write (d : Nat) : q ≠ .write d := by
  rcases hq with rfl | rfl | rfl | rfl <;> exact nofun

end

/-! ### Queries and SETBASEs between two queries -/

/-- A query writes no register, and SETBASE only CFG_BASE (10 R36). -/
theorem exec_keeps_allButCfgBase {i : Instr} {s t : State} (hi : IsQuery i ∨ ∃ base, i = .setbase base)
    (h : exec i s = .next t) : s.regs.SameButCfgBase t.regs := by
  rcases hi with hq | ⟨base, rfl⟩
  · rw [hq.keeps_regs h]
    rfl
  · exact exec_setbase_regs h

theorem performAll_keeps_allButCfgBase {cmds : List (Port × Instr)} {s t : State}
    (hcmds : ∀ c ∈ cmds, IsQuery c.2 ∨ ∃ base, c.2 = .setbase base) (h : performAll cmds s = .next t) :
    s.regs.SameButCfgBase t.regs := by
  induction cmds generalizing s with
  | nil =>
    cases h
    rfl
  | cons c rest ih =>
    obtain ⟨hc, hrest⟩ := List.forall_mem_cons.1 hcmds
    obtain ⟨u, hu, htail⟩ := performAll_cons_next h
    exact (exec_keeps_allButCfgBase (s := { s with issuer := c.1 }) hc hu).trans (ih hrest htail)

/-! ### The values of the four queries -/

theorem boolValue_eq_one_iff (b : Bool) : boolValue b = 1 ↔ b = true := by cases b <;> decide

theorem boolValue_eq_zero_or_one (b : Bool) : boolValue b = 0 ∨ boolValue b = 1 := by cases b <;> decide

theorem usable_eq_ite (r : Regs) : r.usable = if r.pol = .reject then r.cap.toNat - 1 else r.cap.toNat := by
  cases hp : r.pol with
  | reject => exact usable_reject hp
  | overwrite => exact usable_overwrite hp

/-- The size of a bound buffer is at most CAP, so the VALUE field holds it. -/
theorem Regs.Live.toNat_size {c : Config} {r : Regs} (h : r.Live c) : (BitVec.ofNat 24 r.size).toNat = r.size := by
  rw [BitVec.toNat_ofNat, Nat.mod_eq_of_lt (h.size_le_cap.trans_lt r.cap.isLt)]

/-! ### The statements -/

/-- Settles O30: a query is legal at every port, has one answer for each state of the block, and reads its value off the registers
of a bound one. -/
theorem queriesAnswerFromTheRegisters : Obligations.QueriesAnswerFromTheRegisters := by
  refine ⟨rfl, rfl, rfl, rfl, fun s hs => ⟨fun q hq => ⟨IsQuery.exec_faulted hq, IsQuery.exec_unbound hq⟩, fun hl => ?_⟩⟩
  exact ⟨exec_isEmpty_bound hl, exec_isFull_bound hl, ⟨_, (hs.live hl).toNat_size, exec_size_bound hl⟩, exec_capacity_bound hl⟩

/-- Settles O31: queries and SETBASEs keep every register that the answer depends on. -/
theorem queriesChangeNothing : Obligations.QueriesChangeNothing := by
  intro s t q hq h
  refine ⟨IsQuery.keeps_regs hq h, exec_keeps_storage h (IsQuery.ne_write hq), exec_environment h, exec_responds h,
    fun between p u w hbetween hall hagain => ?_⟩
  have hcmds : ∀ c ∈ between, IsQuery c.2 ∨ ∃ base, c.2 = .setbase base := by simpa only [IsQuery, or_assoc] using hbetween
  have hsame : s.regs.SameButCfgBase u.regs := IsQuery.keeps_regs hq h ▸ performAll_keeps_allButCfgBase hcmds hall
  obtain ⟨st, v, hanswer⟩ := IsQuery.exec_eq hq s
  cases h.symm.trans (hanswer s rfl)
  cases hagain.symm.trans (hanswer { u with issuer := p } hsame)
  rfl

/-- Settles O32: ISEMPTY and ISFULL are the predicates of the index unit, which the size decides in a bound state (40 R100, R101). -/
theorem queriesAgree : Obligations.QueriesAgree := by
  intro s hs hl
  have hlive := hs.live hl
  refine ⟨_, _, _, _, _, _, _, _, exec_isEmpty_bound hl, rfl, exec_isFull_bound hl, rfl, exec_size_bound hl, rfl,
    exec_capacity_bound hl, rfl, ?_, boolValue_eq_zero_or_one _, ?_, boolValue_eq_zero_or_one _⟩
  · rw [boolValue_eq_one_iff, hlive.isEmpty_iff, ← BitVec.toNat_inj, hlive.toNat_size]
    rfl
  · rw [boolValue_eq_one_iff, hlive.isFull_iff, hlive.toNat_size, usable_eq_ite]

end Sys2Proof.Machine
end

section
/-! SUPPORT. The status list of 60 R161: which check refuses a command and which commands pass all of them, said once; what each
of the two answers; and that they are the cases of `statusByPriority`. Then the statements about statuses and FAULTED (60). -/
namespace Sys2Proof.Machine

/-! ### Refused and granted commands -/

/-- The commands that need a bound buffer (60 R156). -/
abbrev NeedsBuffer (i : Instr) : Prop :=
  i = .reset ∨ (∃ d, i = .write d) ∨ i = .read ∨ i = .isEmpty ∨ i = .isFull ∨ i = .size ∨ i = .capacity

/-- The checks that refuse a command, each with its status and with those before it passed (60 R152 to R161). -/
inductive Refuses (s : State) : Instr → Status → Prop
  | illegalCommand (i : Instr) (hport : i.legalAt s.issuer = false) : Refuses s i .illegalCommand
  | faulted (i : Instr) (hleg : i.legalAt s.issuer = true) (hl : s.regs.lifecycle = .faulted) : Refuses s i .faulted
  | notBound (i : Instr) (hleg : i.legalAt s.issuer = true) (hl : s.regs.lifecycle = .unbound) (hi : NeedsBuffer i) :
    Refuses s i .notBound
  | alreadyBound (pol : Policy) (mode : IndexMode) (cap : Nat) (hK : s.issuer = .K) (hl : s.regs.lifecycle = .bound) :
    Refuses s (.init pol mode cap) .alreadyBound
  | invalidCapacity (pol : Policy) (mode : IndexMode) (cap : Nat) (hK : s.issuer = .K) (hl : s.regs.lifecycle = .unbound)
    (hcap : capValid s.cfg cap mode = false) : Refuses s (.init pol mode cap) .invalidCapacity
  | invalidStorage (pol : Policy) (mode : IndexMode) (cap : Nat) (hK : s.issuer = .K) (hl : s.regs.lifecycle = .unbound)
    (hcap : capValid s.cfg cap mode = true) (hstore : storageValid s.cfg s.regs.cfgBase.toNat cap = false) :
    Refuses s (.init pol mode cap) .invalidStorage
  | bufferFull (d : Nat) (hP : s.issuer = .P) (hl : s.regs.lifecycle = .bound) (hpol : s.regs.pol = .reject)
    (hfull : s.regs.isFull = true) : Refuses s (.write d) .bufferFull
  | bufferEmpty (hC : s.issuer = .C) (hl : s.regs.lifecycle = .bound) (hempty : s.regs.isEmpty = true) :
    Refuses s .read .bufferEmpty

/-- The commands that pass every check of the list (60 R161, "OK otherwise"). -/
inductive Grants (s : State) : Instr → Prop
  | setbase (base : Nat) (hK : s.issuer = .K) (hl : s.regs.lifecycle ≠ .faulted) : Grants s (.setbase base)
  | init (pol : Policy) (mode : IndexMode) (cap : Nat) (hK : s.issuer = .K) (hl : s.regs.lifecycle = .unbound)
    (hcap : capValid s.cfg cap mode = true) (hstore : storageValid s.cfg s.regs.cfgBase.toNat cap = true) :
    Grants s (.init pol mode cap)
  | deinitUnbound (hK : s.issuer = .K) (hl : s.regs.lifecycle = .unbound) : Grants s .deinit
  | deinitBound (hK : s.issuer = .K) (hl : s.regs.lifecycle = .bound) : Grants s .deinit
  | reset (hK : s.issuer = .K) (hl : s.regs.lifecycle = .bound) : Grants s .reset
  | write (d : Nat) (hP : s.issuer = .P) (hl : s.regs.lifecycle = .bound)
    (hfree : s.regs.pol = .reject → s.regs.isFull = false) : Grants s (.write d)
  | read (hC : s.issuer = .C) (hl : s.regs.lifecycle = .bound) (hsome : s.regs.isEmpty = false) : Grants s .read
  | query (q : Instr) (hl : s.regs.lifecycle = .bound) (hq : IsQuery q) : Grants s q

section
variable {s : State}

theorem refuses_or_grants_init (pol : Policy) (mode : IndexMode) (cap : Nat) (hK : s.issuer = .K)
    (hl : s.regs.lifecycle = .unbound) :
    (∃ st, Refuses s (.init pol mode cap) st) ∨ Grants s (.init pol mode cap) := by
  cases hcap : capValid s.cfg cap mode with
  | false => exact .inl ⟨_, .invalidCapacity pol mode cap hK hl hcap⟩
  | true =>
    cases hstore : storageValid s.cfg s.regs.cfgBase.toNat cap with
    | false => exact .inl ⟨_, .invalidStorage pol mode cap hK hl hcap hstore⟩
    | true => exact .inr (.init pol mode cap hK hl hcap hstore)

theorem refuses_or_grants_write (d : Nat) (hP : s.issuer = .P) (hl : s.regs.lifecycle = .bound) :
    (∃ st, Refuses s (.write d) st) ∨ Grants s (.write d) := by
  by_cases h : s.regs.pol = .reject ∧ s.regs.isFull = true
  · exact .inl ⟨_, .bufferFull d hP hl h.1 h.2⟩
  · exact .inr (.write d hP hl fun hpol => Bool.eq_false_iff.2 fun hfull => h ⟨hpol, hfull⟩)

theorem refuses_or_grants_read (hC : s.issuer = .C) (hl : s.regs.lifecycle = .bound) :
    (∃ st, Refuses s .read st) ∨ Grants s .read := by
  cases hempty : s.regs.isEmpty with
  | true => exact .inl ⟨_, .bufferEmpty hC hl hempty⟩
  | false => exact .inr (.read hC hl hempty)

/-- The list leaves out no command: the port, then STATE, then the command's own checks. -/
theorem refuses_or_grants (i : Instr) (s : State) : (∃ st, Refuses s i st) ∨ Grants s i := by
  cases hleg : i.legalAt s.issuer with
  | false => exact .inl ⟨_, .illegalCommand i hleg⟩
  | true =>
    cases hl : s.regs.lifecycle with
    | faulted => exact .inl ⟨_, .faulted i hleg hl⟩
    | unbound =>
      cases i with
      | setbase base => exact .inr (.setbase base (beq_iff_eq.1 hleg) (by simp [hl]))
      | init pol mode cap => exact refuses_or_grants_init pol mode cap (beq_iff_eq.1 hleg) hl
      | deinit => exact .inr (.deinitUnbound (beq_iff_eq.1 hleg) hl)
      | _ => exact .inl ⟨_, .notBound _ hleg hl (by simp [NeedsBuffer])⟩
    | bound =>
      cases i with
      | setbase base => exact .inr (.setbase base (beq_iff_eq.1 hleg) (by simp [hl]))
      | init pol mode cap => exact .inl ⟨_, .alreadyBound pol mode cap (beq_iff_eq.1 hleg) hl⟩
      | deinit => exact .inr (.deinitBound (beq_iff_eq.1 hleg) hl)
      | reset => exact .inr (.reset (beq_iff_eq.1 hleg) hl)
      | write d => exact refuses_or_grants_write d (beq_iff_eq.1 hleg) hl
      | read => exact refuses_or_grants_read (beq_iff_eq.1 hleg) hl
      | _ => exact .inr (.query _ hl (by simp [IsQuery]))

end

/-! ### What a refused command answers -/

/-- The state a refusal leads to: one response with value 0, and STATE FAULTED after an invalid INIT (60 R158, R161). -/
def State.refused (s : State) : Status → State
  | .invalidCapacity => s.enterFault.respond .invalidCapacity 0
  | .invalidStorage => s.enterFault.respond .invalidStorage 0
  | st => s.respond st 0

theorem refused_answered (s : State) (st : Status) : s.Answered (s.refused st) st 0 := by cases st <;> rfl

@[simp] theorem refused_storage (s : State) (st : Status) : (s.refused st).storage = s.storage := by cases st <;> rfl

theorem refused_regs (s : State) (st : Status) :
    (s.refused st).regs = { s.regs with
      lifecycle := if st = .invalidCapacity ∨ st = .invalidStorage then .faulted else s.regs.lifecycle } := by
  cases st <;> rfl

section
variable {s t : State} {i : Instr} {st : Status}

theorem Refuses.ne_ok (h : Refuses s i st) : st ≠ .ok := by cases h <;> decide

theorem Refuses.exec (h : Refuses s i st) : exec i s = .next (s.refused st) := by
  cases h with
  | illegalCommand _ hport => exact exec_illegal hport
  | faulted _ hleg hl => exact exec_faulted hleg hl
  | notBound _ hleg hl hi => exact exec_notBound hleg hl hi
  | alreadyBound _ _ _ hK hl => exact exec_init_bound (legalAt_K rfl hK) hl
  | invalidCapacity _ _ _ hK hl hcap => exact exec_init_invalidCapacity (legalAt_K rfl hK) hl (Bool.eq_false_iff.1 hcap)
  | invalidStorage _ _ _ hK hl hcap hstore =>
    exact exec_init_invalidStorage (legalAt_K rfl hK) hl hcap (Bool.eq_false_iff.1 hstore)
  | bufferFull d hP hl hpol hfull => exact exec_write_full d hP hl hpol hfull
  | bufferEmpty hC hl hempty => exact exec_read_empty hC hl hempty

theorem Refuses.statusByPriority_eq (h : Refuses s i st) : statusByPriority i s = st := by
  cases h with
  | illegalCommand _ hport => simp [statusByPriority, hport]
  | faulted _ hleg hl => simp [statusByPriority, hleg, hl]
  | notBound _ hleg hl hi =>
    rcases hi with rfl | ⟨d, rfl⟩ | rfl | rfl | rfl | rfl | rfl <;> simp [statusByPriority, hleg, hl]
  | alreadyBound _ _ _ hK hl => simp [statusByPriority, Instr.legalAt, hK, hl]
  | invalidCapacity _ _ _ hK hl hcap => simp [statusByPriority, Instr.legalAt, hK, hl, hcap]
  | invalidStorage _ _ _ hK hl hcap hstore => simp [statusByPriority, Instr.legalAt, hK, hl, hcap, hstore]
  | bufferFull _ hP hl hpol hfull => simp [statusByPriority, Instr.legalAt, hP, hl, hpol, hfull]
  | bufferEmpty hC hl hempty => simp [statusByPriority, Instr.legalAt, hC, hl, hempty]

/-! ### What a granted command answers -/

theorem memWrite_next {a : Nat} {b : Byte} {k : State → Host.Outcome State Fault Refusal} (h : memWrite a b s k = .next t) :
    k (s.putByte a b) = .next t := by
  unfold memWrite at h
  split at h
  · exact h
  · cases h

theorem memRead_next {a : Nat} {k : Byte → Host.Outcome State Fault Refusal} (h : memRead a s k = .next t) :
    k (Memory.byteAt s.storage a) = .next t := by
  unfold memRead at h
  split at h
  · exact h
  · cases h

/-- A WRITE that passed its checks and reached its byte has stored it, whatever the invariants say of the address. -/
theorem exec_write_next {d : Nat} (hP : s.issuer = .P) (hl : s.regs.lifecycle = .bound)
    (hfree : s.regs.pol = .reject → s.regs.isFull = false) (h : Machine.exec (.write d) s = .next t) :
    t = (s.stored d).respond .ok 0 := by
  rw [Machine.exec, execWrite, whenLegal_legal _ (by simp [Instr.legalAt, hP]), whenBound_bound _ hl] at h
  cases hpol : s.regs.pol with
  | reject =>
    simp only [hpol, hfree hpol, Bool.false_eq_true, if_false] at h
    cases memWrite_next h
    rfl
  | overwrite =>
    simp only [hpol] at h
    cases memWrite_next h
    rfl

theorem exec_read_next (hC : s.issuer = .C) (hl : s.regs.lifecycle = .bound) (hsome : s.regs.isEmpty = false)
    (h : Machine.exec .read s = .next t) :
    t = s.loaded.respond .ok ((Memory.byteAt s.storage s.regs.readAddr).setWidth 24) := by
  rw [Machine.exec, execRead, whenLegal_legal _ (by simp [Instr.legalAt, hC]), whenBound_bound _ hl, hsome,
    if_neg Bool.false_ne_true] at h
  cases memRead_next h
  rfl

theorem Grants.answered (h : Grants s i) (hexec : Machine.exec i s = .next t) : ∃ v, s.Answered t .ok v := by
  cases h with
  | setbase base hK hl => cases hexec.symm.trans (exec_setbase_ok base hK hl); exact ⟨_, rfl⟩
  | init pol mode cap hK hl hcap hstore => cases hexec.symm.trans (exec_init_ok pol hK hl hcap hstore); exact ⟨_, rfl⟩
  | deinitUnbound hK hl => cases hexec.symm.trans (exec_deinit_unbound (legalAt_K rfl hK) hl); exact ⟨_, rfl⟩
  | deinitBound hK hl => cases hexec.symm.trans (exec_deinit_bound hK hl); exact ⟨_, rfl⟩
  | reset hK hl => cases hexec.symm.trans (exec_reset_bound hK hl); exact ⟨_, rfl⟩
  | write d hP hl hfree => cases exec_write_next hP hl hfree hexec; exact ⟨_, rfl⟩
  | read hC hl hsome => cases exec_read_next hC hl hsome hexec; exact ⟨_, rfl⟩
  | query _ hl hq => cases hexec.symm.trans (hq.exec_bound hl); exact ⟨_, rfl⟩

theorem Grants.statusByPriority_eq (h : Grants s i) : statusByPriority i s = .ok := by
  cases h with
  | setbase _ hK hl => simp [statusByPriority, Instr.legalAt, hK, hl]
  | init _ _ _ hK hl hcap hstore => simp [statusByPriority, Instr.legalAt, hK, hl, hcap, hstore]
  | deinitUnbound hK hl => simp [statusByPriority, Instr.legalAt, hK, hl]
  | deinitBound hK hl => simp [statusByPriority, Instr.legalAt, hK, hl]
  | reset hK hl => simp [statusByPriority, Instr.legalAt, hK, hl]
  | write _ hP hl hfree => simpa [statusByPriority, Instr.legalAt, hP, hl] using hfree
  | read hC hl hsome => simp [statusByPriority, Instr.legalAt, hC, hl, hsome]
  | query _ hl hq =>
    have hleg := IsQuery.legalAt hq s.issuer
    rcases hq with rfl | rfl | rfl | rfl <;> simp [statusByPriority, hleg, hl]

/-! ### The check behind a response -/

/-- One response shows one status and one value. -/
theorem answered_unique {st' : Status} {v v' : Reg} (h : s.Answered t st v) (h' : s.Answered t st' v') :
    st = st' ∧ v = v' := by
  obtain ⟨hhead, -⟩ := List.cons.inj (h.symm.trans h')
  exact responseWord_injective (Response.mk.inj hhead).2

/-- A command that is answered with another status than OK was refused by that status's check. -/
theorem refuses_of_answered {v : Reg} (h : exec i s = .next t) (hanswer : s.Answered t st v) (hst : st ≠ .ok) :
    Refuses s i st ∧ t = s.refused st ∧ v = 0 := by
  rcases refuses_or_grants i s with ⟨st', hrefuse⟩ | hgrant
  · cases h.symm.trans hrefuse.exec
    obtain ⟨rfl, rfl⟩ := answered_unique hanswer (refused_answered s st')
    exact ⟨hrefuse, rfl, rfl⟩
  · obtain ⟨v', hok⟩ := hgrant.answered h
    exact absurd (answered_unique hanswer hok).1 hst

/-- Of all commands only a refused INIT makes STATE FAULTED (60 R158). -/
theorem exec_enters_faulted (h : exec i s = .next t) (hs : s.regs.lifecycle ≠ .faulted) (ht : t.regs.lifecycle = .faulted) :
    ∃ pol mode cap st, i = .init pol mode cap ∧ st ≠ .ok ∧ s.Answered t st 0 := by
  cases h ▸ exec_performs i s with
  | initRefused pol mode cap st hst => exact ⟨pol, mode, cap, st, rfl, hst, rfl⟩
  | initBound => cases ht
  | released => cases ht
  | stored => exact absurd ((afterWrite_lifecycle _ _).symm.trans ht) hs
  | _ => exact absurd ht hs

/-- An invalid capacity in the words of 60 R154. -/
theorem capValid_eq_false {c : Config} {cap : Nat} {mode : IndexMode} (h : capValid c cap mode = false) :
    cap = 0 ∨ c.capMax < cap ∨ mode = .mask ∧ ¬ ∃ k, cap = 2 ^ k := by
  rw [← Bool.not_eq_true, capValid_iff_two_pow] at h
  by_cases hpow : ∃ k, cap = 2 ^ k
  · simp only [hpow, or_true, and_true] at h
    omega
  · cases mode with
    | mask => exact .inr (.inr ⟨rfl, hpow⟩)
    | modulo =>
      simp only [true_or, and_true] at h
      omega

/-! ### FAULTED is sticky -/

theorem exec_keeps_regs_of_faulted (h : exec i s = .next t) (hl : s.regs.lifecycle = .faulted) : t.regs = s.regs := by
  cases hleg : i.legalAt s.issuer with
  | false => cases h.symm.trans (exec_illegal hleg); rfl
  | true => cases h.symm.trans (exec_faulted hleg hl); rfl

theorem perform_keeps_regs_of_faulted {cw : Word} (h : perform cw s = .next t) (hl : s.regs.lifecycle = .faulted) :
    t.regs = s.regs := by
  rcases perform_cases cw s with hn | ⟨i, -, hi⟩
  · cases h.symm.trans hn; rfl
  · exact exec_keeps_regs_of_faulted (hi ▸ h) hl

end

/-! ### The statements -/

/-- Settles O36: each check of the list has its answer, the commands that pass them all are answered OK, and under the invariants
none of those stops on an address. -/
theorem statusFollowsThePriorityList : Obligations.StatusFollowsThePriorityList := by
  intro s i hs _
  rcases refuses_or_grants i s with ⟨st, hrefuse⟩ | hgrant
  · rw [hrefuse.statusByPriority_eq]
    exact ⟨_, 0, hrefuse.exec, refused_answered s st, fun _ => ⟨refused_storage s st, refused_regs s st⟩⟩
  · obtain ⟨t, hexec⟩ := exec_answers i hs.shaped
    obtain ⟨v, hok⟩ := hgrant.answered hexec
    rw [hgrant.statusByPriority_eq]
    exact ⟨t, v, hexec, hok, fun hne => absurd rfl hne⟩

/-- Settles O37: the check that refuses a command holds its cause, and a refusal records nothing but its response and FAULTED. -/
theorem eachStatusHasItsCause : Obligations.EachStatusHasItsCause := by
  intro s t i st v h hanswer
  refine ⟨?_, ?_, ?_, ?_, ?_, ?_⟩ <;> rintro rfl <;>
    obtain ⟨hrefuse, rfl, rfl⟩ := refuses_of_answered h hanswer (by decide) <;> cases hrefuse
  case bufferFull d _ _ hpol hfull => exact ⟨⟨d, rfl⟩, hpol, (isFull_reject hpol).1 hfull, rfl, rfl, rfl⟩
  case bufferEmpty _ _ hempty => exact ⟨rfl, hempty, rfl, rfl, rfl⟩
  case invalidCapacity pol mode cap _ hl hcap => exact ⟨pol, mode, cap, rfl, hl, capValid_eq_false hcap, rfl, rfl⟩
  case invalidStorage pol mode cap _ hl hcap hstore =>
    exact ⟨pol, mode, cap, rfl, hl, hcap, not_le.1 (of_decide_eq_false hstore), rfl, rfl⟩
  case notBound hl _ hi => exact ⟨hl, hi, rfl, rfl, rfl⟩
  case alreadyBound pol mode cap _ hl => exact ⟨pol, mode, cap, rfl, hl, rfl, rfl, rfl⟩

/-- Settles O40: what enters FAULTED is a refused INIT, and of the checks that refuse an INIT two enter it; an unbound block is
clear before and after. -/
theorem onlyInvalidInitEntersFaulted : Obligations.OnlyInvalidInitEntersFaulted := by
  intro s t i h hs ht
  obtain ⟨pol, mode, cap, st, rfl, hst, hanswer⟩ := exec_enters_faulted h hs ht
  obtain ⟨hrefuse, rfl, -⟩ := refuses_of_answered h hanswer hst
  have hfault : (s.refused st).regs.outputs.faultO = true := beq_iff_eq.2 ht
  cases hrefuse with
  | invalidCapacity _ _ _ _ hl hcap =>
    exact ⟨⟨pol, mode, cap, rfl, .inl hcap⟩, rfl, rfl, .inl rfl, fun hclear _ => hclear (by simp [hl]), hfault⟩
  | invalidStorage _ _ _ _ hl _ hstore =>
    exact ⟨⟨pol, mode, cap, rfl, .inr hstore⟩, rfl, rfl, .inr rfl, fun hclear _ => hclear (by simp [hl]), hfault⟩
  | notBound _ _ _ hi => simp [NeedsBuffer] at hi
  | _ => exact absurd ht hs

/-- Settles O41: a command is answered FAULTED or ILLEGAL_COMMAND and writes no register, and of the other moves only POR does. -/
theorem onlyPorLeavesFaulted : Obligations.OnlyPorLeavesFaulted := by
  intro s t hl h
  refine ⟨fun hpor => ?_, fun rest hscript => ?_⟩
  · cases step_steps h with
    | performed _ _ taken _ _ htaken hperform =>
      obtain ⟨-, hregs, -, -, -⟩ := htaken.keeps
      exact (perform_keeps_regs_of_faulted hperform (hregs ▸ hl)).trans hregs
    | por rest hscript => exact absurd hscript (hpor rest)
    | _ => rfl
  · cases h.symm.trans (step_por hscript)
    rfl

/-- Settles O38: the buffer check comes after the port's, and DEINIT does without it. -/
theorem unboundBlockAnswersNotBound : Obligations.UnboundBlockAnswersNotBound :=
  fun _ _ hl hleg => ⟨exec_notBound hleg hl, fun hi => by cases hi; exact exec_deinit_unbound hleg hl⟩

/-- Settles O39: the FAULTED check comes right after the port's. -/
theorem faultedBlockAnswersFaulted : Obligations.FaultedBlockAnswersFaulted := fun _ _ hl hleg => exec_faulted hleg hl

end Sys2Proof.Machine
end

section
/-! SUPPORT. Two commands pending at two ports, taken in one order or the other (60 R162): the steps answer as the byte queue, and a
WRITE and a READ of a buffer that is neither empty nor full commute. Then the statement about them. -/
namespace Sys2Proof.Machine

/-! ### Two pending commands -/

/-- ARB takes the commands `i` at `p` and `j` at `q` in this order, and the two steps lead through `w` to `t`. -/
structure State.ServesInOrder (s : State) (p : Port) (i : Instr) (q : Port) (j : Instr) (w t : State) : Prop where
  step_first : step { s with script := [.serve p, .serve q] } = .next w
  step_second : step w = .next t
  exec_first : exec i (s.take p [.serve q]) = .next w
  exec_second : exec j (w.take q []) = .next t

theorem step_serve_encode {s : State} {p : Port} {i : Instr} {rest : List Move} (hscript : s.script = .serve p :: rest)
    (hp : s.pending.get p = some (encode i)) (hi : i.WellFormed) : step s = exec i (s.take p rest) := by
  rw [step_serve hscript, serve_some rest hp, perform_of_decode _ (encodedCommandDecodesToItself i hi)]

/-- The first command leaves the other pending and its turn in the script. -/
theorem State.ServesInOrder.of_exec {s w t : State} {p q : Port} {i j : Instr} (hne : q ≠ p) (hi : i.WellFormed)
    (hj : j.WellFormed) (hp : s.pending.get p = some (encode i)) (hq : s.pending.get q = some (encode j))
    (hw : exec i (s.take p [.serve q]) = .next w) (ht : exec j (w.take q []) = .next t) : s.ServesInOrder p i q j w t := by
  obtain ⟨-, hpending, hscript, -⟩ := exec_environment hw
  have hq' : w.pending.get q = some (encode j) := by rw [hpending, take_pending, set_get_ne _ _ _ _ hne, hq]
  exact ⟨(step_serve_encode (s := { s with script := _ }) rfl hp hi).trans hw, (step_serve_encode hscript hq' hj).trans ht,
    hw, ht⟩

/-- Commands of a bound buffer, pending at two ports that may issue them, are answered in the order taken as its queue answers. -/
theorem servesInOrder_refines {s : State} {p q : Port} {i j : Instr} {r : Queue × Status × Nat} (hs : s.Inv)
    (hl : s.regs.lifecycle = .bound) (hne : q ≠ p) (hi : i.WellFormed) (hj : j.WellFormed) (hlegi : i.legalAt p = true)
    (hlegj : j.legalAt q = true) (hp : s.pending.get p = some (encode i)) (hq : s.pending.get q = some (encode j))
    (hr : s.queue.perform i = some r) (hsome : (r.1.perform j).isSome = true) :
    ∃ w t, s.ServesInOrder p i q j w t ∧
      t.responses = (s.queue.performAll [(p, i), (q, j)]).2.reverse ++ s.responses := by
  obtain ⟨q1, st1, v1⟩ := r
  obtain ⟨⟨q2, st2, v2⟩, hr2⟩ := Option.isSome_iff_exists.1 hsome
  obtain ⟨w, hw, hqueue, hlw, hanswer⟩ := exec_refines (s := s.take p [.serve q]) hs hl hlegi hr
  have hinv : w.Inv := exec_keeps_inv hw hs
  obtain ⟨t, ht, -, -, hanswer2⟩ := exec_refines (s := w.take q []) hinv hlw hlegj (hqueue ▸ hr2)
  refine ⟨w, t, .of_exec hne hi hj hp hq hw ht, ?_⟩
  rw [hanswer2, take_responses, hanswer, Queue.performAll_cons _ hr, Queue.performAll_cons [] hr2]
  rfl

/-- The responses of two commands of a queue. -/
theorem Queue.performAll_pair {q q1 q2 : Queue} {p p' : Port} {i j : Instr} {st st' : Status} {v v' : Nat}
    (h : q.perform i = some (q1, st, v)) (h' : q1.perform j = some (q2, st', v')) :
    (q.performAll [(p, i), (p', j)]).2.reverse =
      [{ port := p', word := responseWord st' (BitVec.ofNat 24 v') },
       { port := p, word := responseWord st (BitVec.ofNat 24 v) }] := by
  rw [Queue.performAll_cons _ h, Queue.performAll_cons [] h']
  rfl

/-! ### A WRITE and a READ under REJECT -/

/-- The two transfers write different indices, and the byte is stored at the same slot. -/
theorem afterWrite_afterRead_comm (c : Config) {r : Regs} (hpol : r.pol = .reject) :
    (r.afterWrite c).afterRead c = (r.afterRead c).afterWrite c := by
  rw [afterWrite_reject c r hpol, afterWrite_reject c (r.afterRead c) hpol]
  rfl

section
variable {s w t : State} {d : Nat} (hs : s.Inv) (hl : s.regs.lifecycle = .bound)
include hs hl

theorem write_then_read_effect (hfree : s.regs.isFull = false) (h : s.ServesInOrder .P (.write d) .C .read w t) :
    t.regs = (s.regs.afterWrite s.cfg).afterRead s.cfg ∧
      t.storage = Memory.put s.storage s.regs.writeAddr (BitVec.ofNat 8 d) := by
  have hw := h.exec_first
  have ht := h.exec_second
  have hinv := exec_keeps_inv hw hs
  cases hw.symm.trans (exec_write_stored d hs rfl hl fun _ => hfree)
  have hsome : (s.regs.afterWrite s.cfg).isEmpty = false :=
    (hs.afterWrite_live hl).isEmpty_eq_false_iff.2 ((hs.live hl).afterWrite_size_pos fun _ => hfree)
  cases ht.symm.trans (exec_read_loaded hinv rfl ((afterWrite_lifecycle _ _).trans hl) hsome)
  exact ⟨rfl, rfl⟩

theorem read_then_write_effect (hsome : s.regs.isEmpty = false) (h : s.ServesInOrder .C .read .P (.write d) w t) :
    t.regs = (s.regs.afterRead s.cfg).afterWrite s.cfg ∧
      t.storage = Memory.put s.storage s.regs.writeAddr (BitVec.ofNat 8 d) := by
  have hw := h.exec_first
  have ht := h.exec_second
  have hinv := exec_keeps_inv hw hs
  cases hw.symm.trans (exec_read_loaded hs rfl hl hsome)
  have hfree : (s.regs.afterRead s.cfg).isFull = false := by
    have hlive := hs.live hl
    rw [(hs.afterRead_live hl).isFull_eq_false_iff, hlive.afterRead_size hsome,
      usable_congr (afterRead_pol _ _) (afterRead_cap _ _)]
    have := hlive.isEmpty_eq_false_iff.1 hsome
    have := hlive.size_le
    omega
  cases ht.symm.trans (exec_write_stored d hinv rfl hl fun _ => hfree)
  exact ⟨rfl, rfl⟩

end

/-! ### The statement -/

/-- The content of a buffer that is not empty begins with its oldest byte. -/
theorem exists_content_eq_unread_cons {s : State} (h : s.regs.Live s.cfg) (hsome : s.regs.isEmpty = false) :
    ∃ rest, s.content = s.unread 0 :: rest := by
  obtain ⟨n, hn⟩ : ∃ n, s.regs.size = n + 1 := ⟨_, (Nat.succ_pred_eq_of_pos (h.isEmpty_eq_false_iff.1 hsome)).symm⟩
  exact ⟨_, content_eq_cons hn⟩

/-- Taking a byte off a queue within its bound leaves room for another. -/
theorem Queue.read_then_write {q : Queue} {b : Byte} {rest : List Byte} (d : Nat) (h : q.items = b :: rest)
    (hle : q.items.length ≤ q.usable) :
    (q.performAll [(.C, .read), (.P, .write d)]).2.reverse =
      [{ port := .P, word := responseWord .ok 0 }, { port := .C, word := responseWord .ok (b.setWidth 24) }] := by
  have hroom : rest.length < q.usable := by
    rw [h, List.length_cons] at hle
    exact hle
  rw [Queue.performAll_pair (Queue.perform_read_cons h) (Queue.perform_write_free d hroom), BitVec.ofNat_toNat]
  rfl

/-- Settles O14: both orders answer as the byte queue does, which is empty, at its bound or in between; in between, the two commands
write different indices and the same byte. -/
theorem concurrentWriteAndReadInEitherOrder : Obligations.ConcurrentWriteAndReadInEitherOrder := by
  intro s d hs hd hl hpol hP hC
  have hlive := hs.live hl
  have hwf : (Instr.write d).WellFormed := (wellFormed_write_iff d).2 hd
  obtain ⟨w, w', hw, hwresp⟩ := servesInOrder_refines hs hl (by decide) hwf rfl rfl rfl hP hC rfl rfl
  obtain ⟨r, r', hr, hrresp⟩ := servesInOrder_refines hs hl (by decide) rfl hwf rfl rfl hC hP rfl rfl
  have hroom : s.regs.isFull = false → s.queue.items.length < s.queue.usable := fun hfree => by
    simpa using hlive.isFull_eq_false_iff.1 hfree
  have hbound : s.queue.items.length ≤ s.queue.usable := by simpa using hlive.size_le
  refine ⟨w, w', r, r', hw.step_first, hw.step_second, hr.step_first, hr.step_second, fun hempty hfree => ?_,
    fun hsome hfull => ?_, fun hsome hfree => ?_⟩
  · have hnil : s.queue.items = [] := (content_eq_nil_iff s).2 (hlive.isEmpty_iff.1 hempty)
    have hwrite := Queue.perform_write_free d (hroom hfree)
    have hread := Queue.perform_read_nil hnil
    have hbyte : BitVec.ofNat 24 (BitVec.ofNat 8 d).toNat = BitVec.ofNat 24 d := by
      rw [BitVec.toNat_ofNat, Nat.mod_eq_of_lt hd]
    rw [hwresp, hrresp, Queue.performAll_pair hread hwrite,
      Queue.performAll_pair hwrite (Queue.perform_read_cons (by rw [hnil]; rfl)), hbyte]
    exact ⟨rfl, rfl⟩
  · obtain ⟨rest, hcontent⟩ := exists_content_eq_unread_cons hlive hsome
    have hlast : ¬ s.queue.items.length < s.queue.usable := by simp [hlive.isFull_iff.1 hfull]
    have hwrite : s.queue.perform (.write d) = some (s.queue, .bufferFull, 0) := congrArg some (Queue.write_reject _ hlast hpol)
    rw [hwresp, hrresp, Queue.read_then_write d hcontent hbound,
      Queue.performAll_pair hwrite (Queue.perform_read_cons hcontent), BitVec.ofNat_toNat]
    exact ⟨rfl, rfl⟩
  · obtain ⟨rest, hcontent⟩ := exists_content_eq_unread_cons hlive hsome
    have hwrite := Queue.perform_write_free d (hroom hfree)
    obtain ⟨hwregs, hwstorage⟩ := write_then_read_effect hs hl hfree hw
    obtain ⟨hrregs, hrstorage⟩ := read_then_write_effect hs hl hsome hr
    rw [hwresp, hrresp, Queue.read_then_write d hcontent hbound,
      Queue.performAll_pair hwrite (Queue.perform_read_cons (by rw [queue_items, hcontent]; rfl)), BitVec.ofNat_toNat]
    refine ⟨rfl, rfl, ?_, fun a => ?_⟩
    · rw [hwregs, hrregs, afterWrite_afterRead_comm _ hpol]
    · rw [hwstorage, hrstorage]

end Sys2Proof.Machine
end

section
/-! SUPPORT. What the two agents of a bound buffer may rely on: no command but DEINIT releases it; its size grows only by a WRITE at
P and shrinks only by a READ at C or a RESET. Then the statements of reset and hazards (70). -/
namespace Sys2Proof.Machine

/-! ### One command of a bound buffer -/

theorem exec_keeps_bound {i : Instr} {s t : State} (h : exec i s = .next t) (hl : s.regs.lifecycle = .bound)
    (hi : i ≠ .deinit) : t.regs.lifecycle = .bound := by
  cases h ▸ exec_performs i s with
  | initRefused _ _ _ _ _ hu => simp [hl] at hu
  | initBound => rfl
  | released => exact absurd rfl hi
  | stored => exact (afterWrite_lifecycle _ _).trans hl
  | _ => exact hl

/-- A stored byte makes the size one more, or leaves it where the oldest byte was dropped. -/
theorem Regs.Live.afterWrite_size_bounds {c : Config} {r : Regs} (h : r.Live c)
    (hfree : r.pol = .reject → r.isFull = false) :
    r.size ≤ (r.afterWrite c).size ∧ (r.afterWrite c).size ≤ r.size + 1 := by
  cases hfull : r.isFull with
  | false =>
    rw [h.afterWrite_size_free hfull]
    exact ⟨Nat.le_succ _, le_rfl⟩
  | true =>
    have hpol := overwrite_of_isFull hfree hfull
    rw [h.afterWrite_size_full hpol hfull, h.isFull_iff.1 hfull, usable_overwrite hpol]
    exact ⟨le_rfl, Nat.le_succ _⟩

/-! ### What the agents see over a sequence -/

/-- From `r` to `r'` a sequence keeps the views of both agents: the buffer stays bound and the same, P finds it fuller only by the
WRITEs of P, and, without a RESET, C finds it emptier only by the READs of C (70 R179, R180). -/
structure Regs.KeepsViews (r r' : Regs) (cmds : List (Port × Instr)) : Prop where
  bound : r'.lifecycle = .bound
  buffer : r.SameBuffer r'
  size_le : r'.size ≤ r.size + writeCount cmds
  le_size : (∀ c ∈ cmds, c.2 ≠ .reset) → r.size ≤ r'.size + readCount cmds

theorem writeCount_cons (c : Port × Instr) (rest : List (Port × Instr)) :
    writeCount (c :: rest) = writeCount [c] + writeCount rest :=
  List.countP_append (l₁ := [c])

theorem readCount_cons (c : Port × Instr) (rest : List (Port × Instr)) :
    readCount (c :: rest) = readCount [c] + readCount rest :=
  List.countP_append (l₁ := [c])

theorem Regs.KeepsViews.cons {r r' r'' : Regs} {c : Port × Instr} {rest : List (Port × Instr)} (h : r.KeepsViews r' [c])
    (hrest : r'.KeepsViews r'' rest) : r.KeepsViews r'' (c :: rest) := by
  obtain ⟨-, ⟨hcap, hbase, hpol, hmode⟩, hle, hge⟩ := h
  obtain ⟨hbound, ⟨hcap', hbase', hpol', hmode'⟩, hle', hge'⟩ := hrest
  refine ⟨hbound, ⟨hcap'.trans hcap, hbase'.trans hbase, hpol'.trans hpol, hmode'.trans hmode⟩, ?_, fun hreset => ?_⟩
  · rw [writeCount_cons]
    omega
  · obtain ⟨hc, hcs⟩ := List.forall_mem_cons.1 hreset
    have := hge (List.forall_mem_singleton.2 hc)
    have := hge' hcs
    rw [readCount_cons]
    omega

/-- Of all commands but DEINIT, a stored byte alone makes the size larger, and a loaded byte and RESET alone make it smaller. -/
theorem exec_keepsViews {i : Instr} {s t : State} (h : exec i s = .next t) (hs : s.Inv) (hl : s.regs.lifecycle = .bound)
    (hi : i ≠ .deinit) : s.regs.KeepsViews t.regs [(s.issuer, i)] := by
  have hlive := hs.live hl
  have hbound := exec_keeps_bound h hl hi
  have hsame := exec_keeps_buffer h hl hbound
  cases hleg : i.legalAt s.issuer with
  | false =>
    cases h.symm.trans (exec_illegal hleg)
    exact ⟨hbound, hsame, Nat.le_add_right _ _, fun _ => Nat.le_add_right _ _⟩
  | true =>
    cases h ▸ exec_performs i s with
    | refused | queried | nothingToRelease | setbase =>
      exact ⟨hbound, hsame, Nat.le_add_right _ _, fun _ => Nat.le_add_right _ _⟩
    | initRefused => cases hbound
    | initBound _ _ _ hu => simp [hl] at hu
    | released => exact absurd rfl hi
    | emptied =>
      refine ⟨hbound, hsame, ?_, fun hreset => absurd rfl (hreset _ (List.mem_singleton_self _))⟩
      exact (emptied_fresh hl).size.trans_le (Nat.zero_le _)
    | stored d _ hfree =>
      obtain ⟨hge, hle⟩ := hlive.afterWrite_size_bounds hfree
      rw [show s.issuer = .P from beq_iff_eq.1 hleg]
      exact ⟨hbound, hsame, hle, fun _ => hge⟩
    | loaded _ hsome =>
      have hsize := hlive.afterRead_size hsome
      rw [show s.issuer = .C from beq_iff_eq.1 hleg]
      exact ⟨hbound, hsame, hsize.trans_le (Nat.sub_le _ _), fun _ => Nat.sub_le_iff_le_add.1 hsize.ge⟩

theorem performAll_keepsViews {cmds : List (Port × Instr)} {s t : State} (h : performAll cmds s = .next t) (hs : s.Inv)
    (hl : s.regs.lifecycle = .bound) (hcmds : ∀ c ∈ cmds, c.2 ≠ .deinit) : s.regs.KeepsViews t.regs cmds := by
  induction cmds generalizing s with
  | nil =>
    cases h
    exact ⟨hl, ⟨rfl, rfl, rfl, rfl⟩, le_rfl, fun _ => le_rfl⟩
  | cons c rest ih =>
    obtain ⟨p, i⟩ := c
    obtain ⟨hi, hrest⟩ := List.forall_mem_cons.1 hcmds
    obtain ⟨u, hu, hlater⟩ := performAll_cons_next h
    have hfirst : s.regs.KeepsViews u.regs [(p, i)] := exec_keepsViews (s := { s with issuer := p }) hu hs hl hi
    exact hfirst.cons (ih hlater (performAt_keeps_inv hu hs) hfirst.bound hrest)

/-! ### The statements -/

/-- Settles O59: `usable()` stays the same, and the size has grown by no more than the WRITEs of P, so it is still below. -/
theorem producerViewStaysValid : Obligations.ProducerViewStaysValid := by
  intro s t cmds d hs hl hcmds hview hall
  have ht : t.Inv := performAll_keeps_inv hall hs
  obtain ⟨hbound, ⟨hcap, -, hpol, -⟩, hle, -⟩ := performAll_keepsViews hall hs hl hcmds
  have hfree : t.regs.pol = .reject → t.regs.isFull = false := fun hreject => by
    rcases hview with hover | hroom
    · simp [hpol, hover] at hreject
    · rw [(ht.live hbound).isFull_eq_false_iff, usable_congr hpol hcap]
      exact hle.trans_lt hroom
  exact ⟨_, exec_write_stored (s := { t with issuer := .P }) d ht rfl hbound hfree, rfl⟩

/-- Settles O60: with no RESET the size has shrunk by no more than the READs of C, so a byte is still unread. -/
theorem consumerViewStaysValid : Obligations.ConsumerViewStaysValid := by
  intro s t cmds hs hl hcmds hview hall
  have ht : t.Inv := performAll_keeps_inv hall hs
  obtain ⟨hbound, -, -, hge⟩ := performAll_keepsViews hall hs hl fun c hc => (hcmds c hc).1
  have hsome : t.regs.isEmpty = false := by
    have := hge fun c hc => (hcmds c hc).2
    rw [(ht.live hbound).isEmpty_eq_false_iff]
    omega
  exact ⟨_, _, exec_read_loaded (s := { t with issuer := .C }) ht rfl hbound hsome, rfl⟩

/-- Settles O55: POR loads the POR registers, whose outputs are low, and closes the responses given so far into the record of the
run it ends. -/
theorem porResetsTheBlock : Obligations.PorResetsTheBlock := fun s _ hscript =>
  ⟨_, step_por hscript, rfl, none_get, powerOn_allResponses s, rfl, rfl, rfl⟩

end Sys2Proof.Machine
end
